-- ==== Sys2Proof/Word.lean ====
section
/-! DEFINITION. The word types of the block: 8-bit bytes and 32-bit register words (spec 00_scope.md R6). -/

namespace Sys2Proof

/-- One byte of a stream, a symbol, or a ContextBuffer slot. -/
abbrev Byte := BitVec 8

/-- One control or status register, or a register access. -/
abbrev Word := BitVec 32

end Sys2Proof
end

