-- ==== Sys2Proof/Config.lean ====
section
/-! DEFINITION. The implementation parameters of spec 00_scope.md R5: those the source fixes, those the spec decides
(taken at the spec's defaults, log 5), and the open one, MAGIC, as an opaque constant (log 3). OUTQ_DEPTH is not
used: 10_state.md R33 and 48_bitio_vlc.md R258 let a model keep the queue unbounded (log 4). -/

namespace Sys2Proof

/-- PACK_ORDER (R54, decision D4): where successive stream bits go inside a byte. -/
inductive PackOrder where
  | msbFirst
  | lsbFirst
deriving DecidableEq, Repr

namespace Config

/-- CTX_BITS (source): the ContextBuffer has 2^20 slots. -/
abbrev ctxBits : Nat := 20
/-- CTX_SHIFT (source): the left shift in the hash recurrence. -/
abbrev ctxShift : Nat := 5
/-- NSYM (source): entries of the rank table. -/
abbrev nsym : Nat := 256
/-- RUN_B (source): minimum width of the run-length code. -/
abbrev runB : Nat := 0
/-- RANK_B (source): minimum width of the rank code. -/
abbrev rankB : Nat := 3
/-- RAW_SENTINEL (source): the raw-mode end byte. -/
abbrev rawSentinel : Byte := 0xFF
/-- RANK_EOS (source): the rank-mode end value. -/
abbrev rankEos : Nat := 256
/-- RUN_W (decision D10): width of RunCounter and of the replay counter. -/
abbrev runW : Nat := 32
/-- FREQ_W (decision D9): width of each frequency counter. -/
abbrev freqW : Nat := 32
/-- CNT_W (decision D21): width of IN_COUNT and OUT_COUNT. -/
abbrev cntW : Nat := 32
/-- PACK_ORDER (decision D4), the spec's default. -/
abbrev packOrder : PackOrder := .msbFirst

/-- MAGIC[0..2] (open, decision D8): no value is given, so none is known here; every rule holds for any value. -/
opaque magic : Fin 3 → Byte

end Config

/-- The context hash and ContextBuffer index. -/
abbrev Ctx := BitVec Config.ctxBits
/-- A run length: RunCounter and the replay counter. -/
abbrev RunWord := BitVec Config.runW
/-- A frequency counter. -/
abbrev FreqWord := BitVec Config.freqW
/-- IN_COUNT and OUT_COUNT. -/
abbrev CntWord := BitVec Config.cntW

end Sys2Proof
end

