-- ==== Sys2Proof/Syntax.lean ====
section
/-! DEFINITION. The operations of spec/opcode_table.json, one constructor a row (the two START_C_BAD rows are two
constructors, log 11; HDR_MAGIC is one byte of the magic tag, log 10). The block stores no program: a row is either
an operation of the host (a register access or a beat) or a token of a compressed stream, which the decompress
direction dispatches on (spec 30_encoding.md). -/

namespace Sys2Proof

/-- One operation of the host, or one token of a stream. -/
inductive Instr where
  -- CTRL writes (R80): operands are the fields the word stores
  | cfg (dir : BitVec 1) (mode : BitVec 2)
  | startCRaw
  | startCRank
  | startCBad0               -- START_C_BAD, word 0x1 (MODE = 0)
  | startCBad3               -- START_C_BAD, word 0xD (MODE = 3)
  | startD (mode : BitVec 2)
  -- register reads (R224)
  | rdCtrl
  | rdStatus
  | rdInCount
  | rdOutCount
  | rdUnmapped (addr : BitVec 8)
  -- writes to any other address (R226), with the data written
  | wrStatus (wdata : Word)
  | wrInCount (wdata : Word)
  | wrOutCount (wdata : Word)
  | wrUnmapped (addr : BitVec 8) (wdata : Word)
  -- beats (R222, R223); an END beat's in_data is carried and ignored (R81)
  | inData (d : Byte)
  | inEnd (x : Byte)
  | out
  -- header bytes (R71)
  | hdrMagic (b : Byte)
  | hdrModeRaw
  | hdrModeRank
  | hdrModeBad (b : Byte)
  -- flag tokens (R73, R75)
  | f0
  | f1K0                     -- F1_K0: a run of 1
  | f1K1 (s : BitVec 1)    -- F1_K1: a run of 2^1 + s
  | f1K2 (s : BitVec 2)    -- F1_K2: a run of 2^2 + s
  | f1K3 (s : BitVec 3)    -- F1_K3: a run of 2^3 + s
  | f1K4 (s : BitVec 4)    -- F1_K4: a run of 2^4 + s
  | f1K5 (s : BitVec 5)    -- F1_K5: a run of 2^5 + s
  | f1K6 (s : BitVec 6)    -- F1_K6: a run of 2^6 + s
  | f1K7 (s : BitVec 7)    -- F1_K7: a run of 2^7 + s
  | f1K8 (s : BitVec 8)    -- F1_K8: a run of 2^8 + s
  | f1K9 (s : BitVec 9)    -- F1_K9: a run of 2^9 + s
  | f1K10 (s : BitVec 10)  -- F1_K10: a run of 2^10 + s
  | f1K11 (s : BitVec 11)  -- F1_K11: a run of 2^11 + s
  | f1K12 (s : BitVec 12)  -- F1_K12: a run of 2^12 + s
  | f1K13 (s : BitVec 13)  -- F1_K13: a run of 2^13 + s
  | f1K14 (s : BitVec 14)  -- F1_K14: a run of 2^14 + s
  | f1K15 (s : BitVec 15)  -- F1_K15: a run of 2^15 + s
  | f1K16 (s : BitVec 16)  -- F1_K16: a run of 2^16 + s
  | f1K17 (s : BitVec 17)  -- F1_K17: a run of 2^17 + s
  | f1K18 (s : BitVec 18)  -- F1_K18: a run of 2^18 + s
  | f1K19 (s : BitVec 19)  -- F1_K19: a run of 2^19 + s
  | f1K20 (s : BitVec 20)  -- F1_K20: a run of 2^20 + s
  | f1K21 (s : BitVec 21)  -- F1_K21: a run of 2^21 + s
  | f1K22 (s : BitVec 22)  -- F1_K22: a run of 2^22 + s
  | f1K23 (s : BitVec 23)  -- F1_K23: a run of 2^23 + s
  | f1K24 (s : BitVec 24)  -- F1_K24: a run of 2^24 + s
  | f1K25 (s : BitVec 25)  -- F1_K25: a run of 2^25 + s
  | f1K26 (s : BitVec 26)  -- F1_K26: a run of 2^26 + s
  | f1K27 (s : BitVec 27)  -- F1_K27: a run of 2^27 + s
  | f1K28 (s : BitVec 28)  -- F1_K28: a run of 2^28 + s
  | f1K29 (s : BitVec 29)  -- F1_K29: a run of 2^29 + s
  | f1K30 (s : BitVec 30)  -- F1_K30: a run of 2^30 + s
  | f1K31 (s : BitVec 31)  -- F1_K31: a run of 2^31 + s
  | runOvf                   -- a prefix of RUN_W ones
  -- raw literals and end marker (R76)
  | lit8 (b : Byte)
  | litFF
  | eosRaw
  -- rank literals and end marker (R77, R75)
  | rlitK0 (s : BitVec 3)    -- rank s
  | rlitK1 (s : BitVec 4)    -- rank 8 + s
  | rlitK2 (s : BitVec 5)    -- rank 24 + s
  | rlitK3 (s : BitVec 6)    -- rank 56 + s
  | rlitK4 (s : BitVec 7)    -- rank 120 + s
  | rlitK5 (s : BitVec 3)    -- rank 248 + s
  | eosRank
  | badRankK5 (s : BitVec 8) -- value 248 + s, s = 9 to 255
  | badRankPrefix
  -- padding (R56)
  | pad (n : Fin 8)
deriving DecidableEq, Repr

/-- What the host can do to the block, as the port signals carry it (R220): a register read or write, an offered
input beat (in_end, in_data), taking an output byte, and the reset input (which is no row of the table, R340). -/
inductive HostOp where
  | read (addr : BitVec 8)
  | write (addr : BitVec 8) (wdata : Word)
  | beat (w : BitVec 9)
  | take
  | rst
deriving DecidableEq, Repr

end Sys2Proof
end

