-- ==== Sys2Proof/WellFormed.lean ====
section
/-! DEFINITION. Which terms of Instr stand for an encoding of the table: the ranges the rows give their operands. -/

namespace Sys2Proof

/-- Every operand lies in the range its row gives it (spec 20_memory.md R63, 30_encoding.md R71, R75, R76). -/
def Instr.wellFormed : Instr → Bool
  | .rdUnmapped addr => decide (0x10 ≤ addr.toNat)
  | .wrUnmapped addr _ => decide (0x10 ≤ addr.toNat)
  | .hdrModeBad b => b != 1 && b != 2
  | .lit8 b => b != Config.rawSentinel
  | .badRankK5 s => decide (9 ≤ s.toNat)
  | .cfg .. | .startCRaw | .startCRank | .startCBad0 | .startCBad3 | .startD .. => true
  | .rdCtrl | .rdStatus | .rdInCount | .rdOutCount | .wrStatus .. | .wrInCount .. | .wrOutCount .. => true
  | .inData .. | .inEnd .. | .out | .hdrMagic .. | .hdrModeRaw | .hdrModeRank => true
  | .f0 | .f1K0 | .f1K1 .. | .f1K2 .. | .f1K3 .. | .f1K4 .. | .f1K5 .. | .f1K6 .. | .f1K7 .. => true
  | .f1K8 .. | .f1K9 .. | .f1K10 .. | .f1K11 .. | .f1K12 .. | .f1K13 .. | .f1K14 .. | .f1K15 .. => true
  | .f1K16 .. | .f1K17 .. | .f1K18 .. | .f1K19 .. | .f1K20 .. | .f1K21 .. | .f1K22 .. | .f1K23 .. => true
  | .f1K24 .. | .f1K25 .. | .f1K26 .. | .f1K27 .. | .f1K28 .. | .f1K29 .. | .f1K30 .. | .f1K31 .. => true
  | .runOvf | .litFF | .eosRaw | .rlitK0 .. | .rlitK1 .. | .rlitK2 .. | .rlitK3 .. | .rlitK4 .. => true
  | .rlitK5 .. | .eosRank | .badRankPrefix | .pad .. => true

end Sys2Proof
end

