-- ==== Sys2Proof/Decode.lean ====
section
/-! DEFINITION. The encodings of spec 30_encoding.md: reading bits and variable-length codes from a list of bits
(48_bitio_vlc.md R255 to R257), the decoders of the host's operations and of the stream's tokens, and the encoder,
written from the same tables. A bit string is a list in stream order (R6). -/

namespace Sys2Proof

/-! ### Reading and writing fields -/

/-- What reading from a bit string gives: the bits run out first (the block then waits for a beat, R7), a value and
the bits after it, or a code the limit check of R257 rejects and the bits after the one that made it so. -/
inductive Get (α : Type) where
  | wait
  | got (a : α) (rest : List Bool)
  | bad (rest : List Bool)
deriving DecidableEq, Repr

/-- The n-bit field v, most significant bit first (R55, R251). -/
def bitsOfNat : Nat → Nat → List Bool
  | 0, _ => []
  | n + 1, v => v.testBit n :: bitsOfNat n v

/-- GetBit on a bit string (R255). -/
def getBit : List Bool → Get Bool
  | [] => .wait
  | b :: r => .got b r

/-- GetBits (R256): n more bits onto the value v read so far, v <- 2 v + bit. -/
def getBits : Nat → Nat → List Bool → Get Nat
  | 0, v, bs => .got v bs
  | _ + 1, _, [] => .wait
  | n + 1, v, b :: r => getBits n (2 * v + b.toNat) r

/-- The limit a variable-length code is read with (R257). -/
inductive VlcKind where
  | runLen
  | rank
deriving DecidableEq, Repr

/-- The check R257 makes after each one-bit of the code's first part. -/
def vlcOverLimit (kind : VlcKind) (n len : Nat) : Bool :=
  match kind with
  | .runLen => len == Config.runW
  | .rank => decide (Config.rankEos < n)

/-- GetVLC (R257), from the value n and width len reached so far: the value and the width of its suffix. -/
def getVLC (kind : VlcKind) : Nat → Nat → List Bool → Get (Nat × Nat)
  | _, _, [] => .wait
  | n, len, true :: r =>
    if vlcOverLimit kind (n + 2 ^ len) (len + 1) then .bad r else getVLC kind (n + 2 ^ len) (len + 1) r
  | n, len, false :: r =>
    match getBits len 0 r with
    | .got v r' => .got (n + v, len) r'
    | .wait => .wait
    | .bad r' => .bad r'

/-- The loop of PutVLC (R252), on fuel: the bits it puts. -/
def vlcLoop : Nat → Nat → Nat → List Bool
  | 0, _, _ => []
  | fuel + 1, n, len =>
    if 2 ^ len ≤ n then true :: vlcLoop fuel (n - 2 ^ len) (len + 1) else false :: bitsOfNat len n

/-- The bits PutVLC(n, B) puts (R252). Each round of the loop takes at least 1 off n, so n + 1 rounds are enough. -/
def vlcBits (n B : Nat) : List Bool := vlcLoop (n + 1) n B

/-! ### Host operations -/

/-- The command word of a CTRL write (R80): bits 31:4 ignored. -/
def decodeCtrl (wdata : Word) : Instr :=
  let dir := wdata.extractLsb' 1 1
  let mode := wdata.extractLsb' 2 2
  if wdata.getLsbD 0 = false then .cfg dir mode
  else if dir = 1 then .startD mode
  else if mode = 1 then .startCRaw
  else if mode = 2 then .startCRank
  else if mode = 0 then .startCBad0
  else .startCBad3

/-- A register read (R224): csr_addr[7:2] picks the register (R57). -/
def decodeRead (addr : BitVec 8) : Instr :=
  let r := addr.extractLsb' 2 6
  if r = 0 then .rdCtrl else if r = 1 then .rdStatus else if r = 2 then .rdInCount
  else if r = 3 then .rdOutCount else .rdUnmapped addr

/-- A register write (R225, R226). -/
def decodeWrite (addr : BitVec 8) (wdata : Word) : Instr :=
  let r := addr.extractLsb' 2 6
  if r = 0 then decodeCtrl wdata else if r = 1 then .wrStatus wdata else if r = 2 then .wrInCount wdata
  else if r = 3 then .wrOutCount wdata else .wrUnmapped addr wdata

/-- An input beat (R81): in_end is bit 8, in_data bits 7:0. -/
def decodeBeat (w : BitVec 9) : Instr :=
  if w.getLsbD 8 then .inEnd (w.extractLsb' 0 8) else .inData (w.extractLsb' 0 8)

/-- The operation a host action stands for; none for the reset input, which is no row of the table. -/
def decodeHost : HostOp → Option Instr
  | .read addr => some (decodeRead addr)
  | .write addr wdata => some (decodeWrite addr wdata)
  | .beat w => some (decodeBeat w)
  | .take => some .out
  | .rst => none

/-! ### Stream tokens -/

/-- The fourth header byte (R71). -/
def decodeMode (b : Byte) : Instr :=
  if b = 1 then .hdrModeRaw else if b = 2 then .hdrModeRank else .hdrModeBad b

/-- Header byte number hidx (R70, R186). -/
def decodeHeader (hidx : BitVec 2) (b : Byte) : Instr :=
  if hidx.toNat < 3 then .hdrMagic b else decodeMode b

/-- The flag token of a run in class k with suffix s (R73, R75). -/
def f1OfClass : Nat → Nat → Instr
  | 0, _ => .f1K0
  | 1, s => .f1K1 (BitVec.ofNat 1 s)
  | 2, s => .f1K2 (BitVec.ofNat 2 s)
  | 3, s => .f1K3 (BitVec.ofNat 3 s)
  | 4, s => .f1K4 (BitVec.ofNat 4 s)
  | 5, s => .f1K5 (BitVec.ofNat 5 s)
  | 6, s => .f1K6 (BitVec.ofNat 6 s)
  | 7, s => .f1K7 (BitVec.ofNat 7 s)
  | 8, s => .f1K8 (BitVec.ofNat 8 s)
  | 9, s => .f1K9 (BitVec.ofNat 9 s)
  | 10, s => .f1K10 (BitVec.ofNat 10 s)
  | 11, s => .f1K11 (BitVec.ofNat 11 s)
  | 12, s => .f1K12 (BitVec.ofNat 12 s)
  | 13, s => .f1K13 (BitVec.ofNat 13 s)
  | 14, s => .f1K14 (BitVec.ofNat 14 s)
  | 15, s => .f1K15 (BitVec.ofNat 15 s)
  | 16, s => .f1K16 (BitVec.ofNat 16 s)
  | 17, s => .f1K17 (BitVec.ofNat 17 s)
  | 18, s => .f1K18 (BitVec.ofNat 18 s)
  | 19, s => .f1K19 (BitVec.ofNat 19 s)
  | 20, s => .f1K20 (BitVec.ofNat 20 s)
  | 21, s => .f1K21 (BitVec.ofNat 21 s)
  | 22, s => .f1K22 (BitVec.ofNat 22 s)
  | 23, s => .f1K23 (BitVec.ofNat 23 s)
  | 24, s => .f1K24 (BitVec.ofNat 24 s)
  | 25, s => .f1K25 (BitVec.ofNat 25 s)
  | 26, s => .f1K26 (BitVec.ofNat 26 s)
  | 27, s => .f1K27 (BitVec.ofNat 27 s)
  | 28, s => .f1K28 (BitVec.ofNat 28 s)
  | 29, s => .f1K29 (BitVec.ofNat 29 s)
  | 30, s => .f1K30 (BitVec.ofNat 30 s)
  | 31, s => .f1K31 (BitVec.ofNat 31 s)
  | _, _ => .runOvf

/-- A record's flag and run code (R122): the token and the bits after it. -/
def decodeFlag (bs : List Bool) : Get Instr :=
  match getBit bs with
  | .got true r =>
    match getVLC .runLen 0 Config.runB r with
    | .got (n, len) r' => .got (f1OfClass len (n + 1 - 2 ^ len)) r'
    | .wait => .wait
    | .bad r' => .got .runOvf r'
  | .got false r => .got .f0 r
  | .wait => .wait
  | .bad r => .bad r

/-- A raw literal or end marker (R142, R76). -/
def decodeRaw (bs : List Bool) : Get Instr :=
  match getBits 8 0 bs with
  | .got v r =>
    if v = Config.rawSentinel.toNat then
      match getBit r with
      | .got d r' => .got (if d then .eosRaw else .litFF) r'
      | .wait => .wait
      | .bad r' => .bad r'
    else .got (.lit8 (BitVec.ofNat 8 v)) r
  | .wait => .wait
  | .bad r => .bad r

/-- The rank-mode token of value n (R75, R77). -/
def rankToken (n : Nat) : Instr :=
  if n ≤ 7 then .rlitK0 (BitVec.ofNat 3 n)
  else if n ≤ 23 then .rlitK1 (BitVec.ofNat 4 (n - 8))
  else if n ≤ 55 then .rlitK2 (BitVec.ofNat 5 (n - 24))
  else if n ≤ 119 then .rlitK3 (BitVec.ofNat 6 (n - 56))
  else if n ≤ 247 then .rlitK4 (BitVec.ofNat 7 (n - 120))
  else if n ≤ 255 then .rlitK5 (BitVec.ofNat 3 (n - 248))
  else if n = Config.rankEos then .eosRank
  else .badRankK5 (BitVec.ofNat 8 (n - 248))

/-- A rank literal or end marker (R145, R77). -/
def decodeRank (bs : List Bool) : Get Instr :=
  match getVLC .rank 0 Config.rankB bs with
  | .got (n, _) r => .got (rankToken n) r
  | .wait => .wait
  | .bad r => .got .badRankPrefix r

/-! ### Whole encodings -/

/-- The code of one operation or token, under the port or stream position it stands at. -/
inductive Code where
  | host (op : HostOp)
  | headerMagic (b : Byte)
  | headerMode (b : Byte)
  | flag (bits : List Bool)
  | raw (bits : List Bool)
  | rank (bits : List Bool)
  | padding (bits : List Bool)
deriving DecidableEq, Repr

/-- Why a code is no single operation or token. -/
inductive DecodeError where
  /-- The bits end inside a token: the block would wait for a beat. -/
  | incomplete
  /-- Bits stand after the token. -/
  | trailingBits
  /-- Padding is 0 to 7 bits (R56). -/
  | padTooLong
  /-- The reset input is no row of the table. -/
  | resetInput
deriving DecidableEq, Repr

/-- A token must take up all the bits. -/
def wholeToken : Get Instr → Except DecodeError Instr
  | .got i [] => .ok i
  | .got _ (_ :: _) => .error .trailingBits
  | .wait => .error .incomplete
  | .bad _ => .error .incomplete

/-- The operation or token a code stands for. The value of padding bits is not looked at (R78). -/
def decode : Code → Except DecodeError Instr
  | .host op =>
    match decodeHost op with
    | some i => .ok i
    | none => .error .resetInput
  | .headerMagic b => .ok (.hdrMagic b)
  | .headerMode b => .ok (decodeMode b)
  | .flag bs => wholeToken (decodeFlag bs)
  | .raw bs => wholeToken (decodeRaw bs)
  | .rank bs => wholeToken (decodeRank bs)
  | .padding bs => if h : bs.length < 8 then .ok (.pad ⟨bs.length, h⟩) else .error .padTooLong

/-- A CTRL command word with bits 31:4 = 0 (R80). -/
def ctrlWord (start : BitVec 1) (dir : BitVec 1) (mode : BitVec 2) : Word := (0#28 ++ mode) ++ (dir ++ start)

/-- The F1 token of class k with suffix s: 1, 1^k, 0, k suffix bits (R73). -/
def f1Bits (k s : Nat) : List Bool := List.replicate (k + 1) true ++ false :: bitsOfNat k s

/-- The rank code of class k with suffix s: 1^k, 0, 3 + k suffix bits (R75). -/
def rlitBits (k s : Nat) : List Bool := List.replicate k true ++ false :: bitsOfNat (3 + k) s

/-- The code of an operation or token, with every ignored bit 0. OUT carries no operand: its byte is the block's. -/
def encode : Instr → Code
  | .cfg dir mode => .host (.write 0x00 (ctrlWord 0 dir mode))
  | .startCRaw => .host (.write 0x00 0x5)
  | .startCRank => .host (.write 0x00 0x9)
  | .startCBad0 => .host (.write 0x00 0x1)
  | .startCBad3 => .host (.write 0x00 0xD)
  | .startD mode => .host (.write 0x00 (ctrlWord 1 1 mode))
  | .rdCtrl => .host (.read 0x00)
  | .rdStatus => .host (.read 0x04)
  | .rdInCount => .host (.read 0x08)
  | .rdOutCount => .host (.read 0x0C)
  | .rdUnmapped addr => .host (.read addr)
  | .wrStatus wdata => .host (.write 0x04 wdata)
  | .wrInCount wdata => .host (.write 0x08 wdata)
  | .wrOutCount wdata => .host (.write 0x0C wdata)
  | .wrUnmapped addr wdata => .host (.write addr wdata)
  | .inData d => .host (.beat (0#1 ++ d))
  | .inEnd x => .host (.beat (1#1 ++ x))
  | .out => .host .take
  | .hdrMagic b => .headerMagic b
  | .hdrModeRaw => .headerMode 0x01
  | .hdrModeRank => .headerMode 0x02
  | .hdrModeBad b => .headerMode b
  | .f0 => .flag [false]
  | .f1K0 => .flag (f1Bits 0 0)
  | .f1K1 s => .flag (f1Bits 1 s.toNat)
  | .f1K2 s => .flag (f1Bits 2 s.toNat)
  | .f1K3 s => .flag (f1Bits 3 s.toNat)
  | .f1K4 s => .flag (f1Bits 4 s.toNat)
  | .f1K5 s => .flag (f1Bits 5 s.toNat)
  | .f1K6 s => .flag (f1Bits 6 s.toNat)
  | .f1K7 s => .flag (f1Bits 7 s.toNat)
  | .f1K8 s => .flag (f1Bits 8 s.toNat)
  | .f1K9 s => .flag (f1Bits 9 s.toNat)
  | .f1K10 s => .flag (f1Bits 10 s.toNat)
  | .f1K11 s => .flag (f1Bits 11 s.toNat)
  | .f1K12 s => .flag (f1Bits 12 s.toNat)
  | .f1K13 s => .flag (f1Bits 13 s.toNat)
  | .f1K14 s => .flag (f1Bits 14 s.toNat)
  | .f1K15 s => .flag (f1Bits 15 s.toNat)
  | .f1K16 s => .flag (f1Bits 16 s.toNat)
  | .f1K17 s => .flag (f1Bits 17 s.toNat)
  | .f1K18 s => .flag (f1Bits 18 s.toNat)
  | .f1K19 s => .flag (f1Bits 19 s.toNat)
  | .f1K20 s => .flag (f1Bits 20 s.toNat)
  | .f1K21 s => .flag (f1Bits 21 s.toNat)
  | .f1K22 s => .flag (f1Bits 22 s.toNat)
  | .f1K23 s => .flag (f1Bits 23 s.toNat)
  | .f1K24 s => .flag (f1Bits 24 s.toNat)
  | .f1K25 s => .flag (f1Bits 25 s.toNat)
  | .f1K26 s => .flag (f1Bits 26 s.toNat)
  | .f1K27 s => .flag (f1Bits 27 s.toNat)
  | .f1K28 s => .flag (f1Bits 28 s.toNat)
  | .f1K29 s => .flag (f1Bits 29 s.toNat)
  | .f1K30 s => .flag (f1Bits 30 s.toNat)
  | .f1K31 s => .flag (f1Bits 31 s.toNat)
  | .runOvf => .flag (List.replicate (Config.runW + 1) true)
  | .lit8 b => .raw (bitsOfNat 8 b.toNat)
  | .litFF => .raw (List.replicate 8 true ++ [false])
  | .eosRaw => .raw (List.replicate 9 true)
  | .rlitK0 s => .rank (rlitBits 0 s.toNat)
  | .rlitK1 s => .rank (rlitBits 1 s.toNat)
  | .rlitK2 s => .rank (rlitBits 2 s.toNat)
  | .rlitK3 s => .rank (rlitBits 3 s.toNat)
  | .rlitK4 s => .rank (rlitBits 4 s.toNat)
  | .rlitK5 s => .rank (rlitBits 5 s.toNat)
  | .eosRank => .rank (rlitBits 5 8)
  | .badRankK5 s => .rank (rlitBits 5 s.toNat)
  | .badRankPrefix => .rank (List.replicate 6 true)
  | .pad n => .padding (List.replicate n.val false)

/-! ### Table words -/

/-- The digits of w, most significant first, without leading zeros (w below 2^64). -/
def digits (w : Nat) : List Bool := (bitsOfNat 64 w).dropWhile (fun b => !b)

/-- The single token that is exactly these bits. -/
def exactToken (g : Get Instr) : Option Instr :=
  match g with
  | .got i [] => some i
  | _ => none

/-- A table word of one byte. The table's formats overlap, and the number does not say its port, so an order is fixed
(log 13): the two mode bytes; a byte below 16 that is a multiple of 4 is a read address; another byte below
16 is a CTRL word; then the flag tokens and the rank codes; then a read of an unmapped address. -/
def tableByte (w : Nat) : Instr :=
  if w = 1 then .hdrModeRaw
  else if w = 2 then .hdrModeRank
  else if w < 16 then
    if w % 4 = 0 then decodeRead (BitVec.ofNat 8 w) else decodeCtrl (BitVec.ofNat 32 w)
  else
    match exactToken (decodeFlag (digits w)), exactToken (decodeRank (digits w)) with
    | some i, _ => i
    | none, some i => i
    | none, none => .rdUnmapped (BitVec.ofNat 8 w)

/-- A table word of 9 to 16 bits: an input beat when it fits in 9 bits (but for the two raw tokens of 9 ones and of 8
ones and a zero), else a token (log 13). -/
def tableTwoBytes (w : Nat) : Option Instr :=
  if w = 0x1FE then some .litFF
  else if w = 0x1FF then some .eosRaw
  else if w < 512 then some (decodeBeat (BitVec.ofNat 9 w))
  else
    match exactToken (decodeFlag (digits w)) with
    | some i => some i
    | none => exactToken (decodeRank (digits w))

/-- The instruction of a word as spec/opcode_table.json numbers its bits, its nbits rounded up to whole bytes. A token
is read most significant bit first, its first bit a 1 (log 13). -/
def decodeTableWord (nbits w : Nat) : Option Instr :=
  if 2 ^ nbits ≤ w then none
  else if nbits = 8 then some (tableByte w)
  else if nbits = 16 then tableTwoBytes w
  else if nbits = 24 then
    match exactToken (decodeFlag (digits w)) with
    | some i => some i
    | none => some (.hdrMagic (BitVec.ofNat 8 (w / 2 ^ 16)))
  else if nbits = 32 then
    if w < 2 ^ 24 then some (decodeCtrl (BitVec.ofNat 32 w)) else
    match exactToken (decodeFlag (digits w)) with
    | some i => some i
    | none => some (decodeCtrl (BitVec.ofNat 32 w))
  else if nbits ≤ 64 then exactToken (decodeFlag (digits w))
  else none

end Sys2Proof
end

