-- ==== Sys2Proof/Machine/State.lean ====
section
/-! DEFINITION. The state of one instance (spec 10_state.md R20 to R39), the values the host last received
(45_host_interface.md R220), and the model's own fields for a paused operation and for the host's part of the run. -/

namespace Sys2Proof.Machine

/-- STATUS.STATE (R37). -/
inductive RunState where
  | idle
  | busy
  | done
  | error
deriving DecidableEq, Repr

/-- STATUS.ERR (60_exceptions.md R300): the eight codes the block sets; 8 to 15 never occur. -/
inductive ErrCode where
  | none
  | usage
  | format
  | unexpectedEnd
  | badRank
  | runLengthOverflow
  | runCounterOverflow
  | freqOverflow
deriving DecidableEq, Repr

/-- The active mode (R27): 0, 1 and 2; the value 3 never occurs. -/
inductive AMode where
  | none
  | raw
  | rank
deriving DecidableEq, Repr

/-- The controller position (R30). -/
inductive Phase where
  | halt
  | cBody
  | cFinish
  | dHdr
  | dFlag
  | dReplay
  | dLit
  | dTail
  | dFinish
deriving DecidableEq, Repr

/-- Who makes the next move: the block or its host (log 6). -/
inductive Agent where
  | block
  | host
deriving DecidableEq, Repr

/-- The rank table (R24 to R26): `order` lists the symbols by rank, front first; `freq` is indexed by symbol. -/
structure RankTable where
  order  : List Byte
  freq   : Vector FreqWord 256
  anchor : Byte
deriving DecidableEq, Repr

/-- The rank table at START (43_rank_tracker.md R165). -/
def RankTable.initial : RankTable :=
  { order := (List.range 256).map (BitVec.ofNat 8), freq := Vector.replicate 256 0, anchor := 0 }

/-- The whole state. The names are those of R20. -/
structure State where
  /-- ContextBuffer (R21): the slots that are not 0, by rising index. -/
  cb        : List Host.Cell
  /-- Context hash (R22). -/
  ctx       : Ctx
  /-- RunCounter (R23). -/
  run       : RunWord
  /-- Rank table (R24 to R26). -/
  rank      : RankTable
  /-- Active mode, STATUS.AMODE (R27). -/
  amode     : AMode
  /-- Active direction, STATUS.ADIR (R28): 0 compress, 1 decompress. -/
  adir      : BitVec 1
  /-- Replay counter (R29). -/
  rem       : RunWord
  /-- Controller position (R30). -/
  phase     : Phase
  /-- Number of the next header byte (R30). -/
  hidx      : BitVec 2
  /-- Bit writer: the output byte being filled (R31). -/
  acc       : Byte
  /-- Bit writer: how many bits of `acc` are filled (R31). -/
  nacc      : Fin 8
  /-- Bit reader: the input byte being read (R32). -/
  cur       : Byte
  /-- Bit reader: how many bits of `cur` are unread (R32). -/
  nleft     : Fin 9
  /-- Output queue, head first (R33). -/
  outq      : List Byte
  /-- CTRL.DIR (R36). -/
  ctrlDir   : BitVec 1
  /-- CTRL.MODE (R36). -/
  ctrlMode  : BitVec 2
  /-- STATUS.STATE (R37). -/
  st        : RunState
  /-- STATUS.ERR (R37). -/
  err       : ErrCode
  /-- IN_COUNT (R38). -/
  inCount   : CntWord
  /-- OUT_COUNT (R39). -/
  outCount  : CntWord
  /-- What csr_rdata carried at the last register read (R220, R224; log 15). -/
  csrRdata  : Word
  /-- The byte the host took at the last output transfer (R223; log 15). out_data itself is `State.outData`. -/
  taken     : Byte
  /-- The model's own (log 8): the bits the operation in progress has read while it waits in GetBit. -/
  tok       : List Bool
  /-- The model's own (log 8): the byte GetByte returned to DEC_HEADER_BYTE and it has not yet checked. -/
  hdrByte   : Option Byte
  /-- The model's own (log 6): the host's operations still to take effect, in order. -/
  host      : List HostOp
  /-- The model's own (log 6): who moves, each time both the block and the host could. -/
  turns     : List Agent
deriving DecidableEq, Repr

/-- Why a step stops the machine: never. The block has no traps (60_exceptions.md) and every operation has an effect
in every state; its seven errors are states (R309). Nothing raises a Fault (log 18; safe). -/
inductive Fault where
deriving DecidableEq, Repr

/-- Why an operation has no meaning. -/
inductive Refusal where
  /-- Raised by an arm of exec whose row has no meaning yet: no arm is such (safe). -/
  | notModelled (mnemonic : String)
deriving DecidableEq, Repr

/-- What a step answers. -/
abbrev Res := Host.Outcome State Fault Refusal

/-- The state after the reset input (70_reset_and_hazards.md R340). `cb`, `ctx`, `run`, `rank`, `rem`, `hidx`, `acc`,
`nacc`, `cur` and `nleft` are unspecified there: their values here are a DESIGN CHOICE (log 1). -/
def State.reset : State :=
  { cb := [], ctx := 0, run := 0, rank := RankTable.initial, amode := .none, adir := 0, rem := 0, phase := .halt
    hidx := 0, acc := 0, nacc := 0, cur := 0, nleft := 0, outq := [], ctrlDir := 0, ctrlMode := 0, st := .idle
    err := .none, inCount := 0, outCount := 0, csrRdata := 0, taken := 0, tok := [], hdrByte := none
    host := [], turns := [] }

end Sys2Proof.Machine
end

