-- ==== Sys2Proof/Machine/Ops.lean ====
section
/-! DEFINITION. The shared operations over the state: the ContextBuffer's cells, the output queue, entering an error
and leaving it, starting a stream, the reset input, and waiting. -/

namespace Sys2Proof.Machine

/-! ### ContextBuffer cells (20_memory.md R51) -/

/-- What a slot with no entry reads as: 0, "a slot not written since START holds 0" (R21). -/
def Memory.unlisted : Byte := 0

/-- Slot a. -/
def Memory.read : List Host.Cell → Nat → Byte
  | [], _ => Memory.unlisted
  | (k, v) :: r, a => if k = a then v else Memory.read r a

/-- Slot a set to v, in the canonical form. -/
def Memory.write : List Host.Cell → Nat → Byte → List Host.Cell
  | [], a, v => if v = Memory.unlisted then [] else [(a, v)]
  | (k, w) :: r, a, v =>
    if a < k then (if v = Memory.unlisted then (k, w) :: r else (a, v) :: (k, w) :: r)
    else if a = k then (if v = Memory.unlisted then r else (k, v) :: r)
    else (k, w) :: Memory.write r a v

/-- The canonical form: indices rise strictly and lie below 2^20, and no entry holds what an unlisted slot reads. -/
def Memory.wf : List Host.Cell → Bool
  | [] => true
  | (k, v) :: r =>
    decide (k < 2 ^ Config.ctxBits) && v != Memory.unlisted && r.all (fun c => decide (k < c.1)) && Memory.wf r

/-! ### Output queue -/

/-- Emit(c) (48_bitio_vlc.md R258), on a queue without a bound (log 4). -/
def State.emit (c : Byte) (s : State) : State := { s with outq := s.outq ++ [c] }

/-! ### Errors (60_exceptions.md) -/

/-- `raise E` (R309): the one way into STATE = ERROR. The operation in progress is over, so what it had read is
dropped with it (log 8); nothing else changes. -/
def State.raise (e : ErrCode) (s : State) : State :=
  { s with err := e, st := .error, phase := .halt, outq := [], tok := [], hdrByte := none }

/-- What both START steps set before the first byte (44_stream_controller.md R180, R185; 70_reset_and_hazards.md R342).
This is also the only way, beside reset, out of STATE = ERROR (R311). `cur` is unspecified after it while `nleft` is 0
(10_state.md R32): that it keeps its byte is a DESIGN CHOICE (log 20). -/
def State.freshStream (s : State) : State :=
  { s with cb := [], ctx := 0, run := 0, rem := 0, rank := RankTable.initial, acc := 0, nacc := 0, nleft := 0
           err := .none, st := .busy, tok := [], hdrByte := none }

/-- The first line of both START steps (R180, R185). -/
def State.clearPorts (dir : BitVec 1) (s : State) : State :=
  { s with inCount := 0, outCount := 0, adir := dir, outq := [] }

/-- The reset input (70_reset_and_hazards.md R340). The elements R340 leaves unspecified take the values of
`State.reset` (log 2). The host keeps what it has still to offer, and the port signals keep their values. -/
def State.applyReset (s : State) : State :=
  { State.reset with host := s.host, turns := s.turns, csrRdata := s.csrRdata, taken := s.taken }

/-! ### Input -/

/-- A data beat is counted (10_state.md R38): modulo 2^CNT_W. -/
def State.countIn (s : State) : State := { s with inCount := s.inCount + 1 }

/-- The host goes on offering (45_host_interface.md R221, 30_encoding.md R82): nothing has transferred (log 7). -/
def State.hold (op : HostOp) (s : State) : State := { s with host := op :: s.host }

/-! ### Steps -/

/-- STATE is BUSY and the controller is at phase p: the only states in which a step of phase p runs (44_stream_controller.md,
introduction; 60_exceptions.md R312). -/
abbrev State.At (p : Phase) (s : State) : Prop := s.st = .busy ∧ s.phase = p

/-- An operation that runs at phase p, and elsewhere does nothing: it is not fetched there (log 9). -/
def State.atPhase (p : Phase) (f : State → State) (s : State) : State := if s.At p then f s else s

end Sys2Proof.Machine
end

