-- ==== Sys2Proof/Machine/Flags.lean ====
section
/-! DEFINITION. The status fields and register images (10_state.md R36 to R39, 45_host_interface.md R224), and the two
ready/valid signals the block drives (R222, R223). The block has no condition flags (R34). -/

namespace Sys2Proof.Machine

/-- STATUS.STATE (R37). -/
def RunState.code : RunState → BitVec 2
  | .idle => 0
  | .busy => 1
  | .done => 2
  | .error => 3

/-- STATUS.ERR (R300). -/
def ErrCode.code : ErrCode → BitVec 4
  | .none => 0
  | .usage => 1
  | .format => 2
  | .unexpectedEnd => 3
  | .badRank => 4
  | .runLengthOverflow => 5
  | .runCounterOverflow => 6
  | .freqOverflow => 7

/-- STATUS.AMODE (R27). -/
def AMode.code : AMode → BitVec 2
  | .none => 0
  | .raw => 1
  | .rank => 2

/-- The mode byte of the header (30_encoding.md R71). -/
def AMode.byte (m : AMode) : Byte := m.code.setWidth 8

/-- CTRL as read (R36, R224): MODE, DIR, and START reads 0. -/
def State.ctrlReg (s : State) : Word := (s.ctrlMode ++ s.ctrlDir ++ 0#1).setWidth 32

/-- STATUS as read (R37, R224). -/
def State.statusReg (s : State) : Word :=
  (s.adir ++ s.amode.code ++ s.err.code ++ 0#2 ++ s.st.code).setWidth 32

/-- in_ready (R222): BUSY, and at a step that needs a beat. -/
def State.inReady (s : State) : Bool :=
  s.st == .busy &&
  match s.phase with
  | .cBody => true
  | .dHdr => s.hdrByte.isNone
  | .dFlag => s.nleft == 0
  | .dLit => s.nleft == 0
  | .dTail => true
  | .halt => false
  | .cFinish => false
  | .dReplay => false
  | .dFinish => false

/-- out_valid (R223). -/
def State.outValid (s : State) : Bool := !s.outq.isEmpty

/-- out_data (R223): the head of the queue; none while the block offers nothing. -/
def State.outData (s : State) : Option Byte := s.outq.head?

end Sys2Proof.Machine
end

