-- ==== Sys2Proof/Machine/Operands.lean ====
section
/-! DEFINITION. How operands are reached: bits inside a byte (20_memory.md R54), the unread bits of the input byte
(48_bitio_vlc.md R255), frequency counters and places in the rank list (43_rank_tracker.md). -/

namespace Sys2Proof.Machine

/-- Bit i of v set to b. -/
def setBit (v : Byte) (i : Nat) (b : Bool) : Byte :=
  if b then v ||| (1#8 <<< i) else v &&& ~~~(1#8 <<< i)

/-- The place in the byte of the bit that enters when n bits are filled (R250). -/
def packIndex (o : PackOrder) (n : Nat) : Nat :=
  match o with
  | .msbFirst => 7 - n
  | .lsbFirst => n

/-- The place in the byte of the bit GetBit returns when n bits are unread, n ≥ 1 (R255). -/
def readIndex (o : PackOrder) (n : Nat) : Nat :=
  match o with
  | .msbFirst => n - 1
  | .lsbFirst => 8 - n

/-- The n unread bits of the byte v, in the order GetBit returns them (R255). -/
def unreadBits (o : PackOrder) (v : Byte) : Nat → List Bool
  | 0 => []
  | n + 1 => v.getLsbD (readIndex o (n + 1)) :: unreadBits o v n

/-- A byte whose last unread bits are these, at most eight. -/
def packUnread (o : PackOrder) : List Bool → Byte
  | [] => 0
  | b :: r => setBit (packUnread o r) (readIndex o (r.length + 1)) b

/-- The unread bits of `cur`. -/
def State.unread (s : State) : List Bool := unreadBits Config.packOrder s.cur s.nleft.val

/-- freq[c] (R25). -/
def RankTable.freqOf (t : RankTable) (c : Byte) : FreqWord := t.freq[c.toNat]'c.isLt

/-- freq[c] is 2^FREQ_W - 1: one more would raise FREQ_OVERFLOW (60_exceptions.md R308). -/
abbrev RankTable.freqFull (t : RankTable) (c : Byte) : Prop := (t.freqOf c).toNat = 2 ^ Config.freqW - 1

/-- freq[c] <- freq[c] + 1. -/
def RankTable.bump (t : RankTable) (c : Byte) : RankTable :=
  { t with freq := t.freq.set c.toNat (t.freqOf c + 1) c.isLt }

/-- RankOf(c) (R161). `order` is a permutation in every reachable state; off one, an absent symbol stands past the
end (log 16). -/
def RankTable.rankOf (t : RankTable) (c : Byte) : Nat := t.order.idxOf c

/-- SymbolAt(r) (R162). -/
def RankTable.symbolAt (t : RankTable) (r : Nat) : Byte := t.order.getD r 0

/-- order[0]. -/
def RankTable.front (t : RankTable) : Byte := t.symbolAt 0

end Sys2Proof.Machine
end

