-- ==== Sys2Proof/Machine/BitWriter.lean ====
section
/-! DEFINITION. The bit writer (spec 48_bitio_vlc.md R250 to R253). -/

namespace Sys2Proof.Machine

/-- PutBit(b) (R250). -/
def State.putBit (b : Bool) (s : State) : State :=
  let acc := setBit s.acc (packIndex Config.packOrder s.nacc.val) b
  if h : s.nacc.val + 1 < 8 then { s with acc := acc, nacc := ⟨s.nacc.val + 1, h⟩ }
  else { s.emit acc with acc := 0, nacc := 0 }

/-- The bits of a list, in order. -/
def State.putList : List Bool → State → State
  | [], s => s
  | b :: r, s => State.putList r (s.putBit b)

/-- PutBits(v, n) (R251). -/
def State.putBits (v n : Nat) (s : State) : State := s.putList (bitsOfNat n v)

/-- PutVLC(n, B) (R252). -/
def State.putVLC (n B : Nat) (s : State) : State := s.putList (vlcBits n B)

/-- The loop of PadToByte (R253), on fuel. -/
def State.padLoop : Nat → State → State
  | 0, s => s
  | fuel + 1, s => if s.nacc = 0 then s else State.padLoop fuel (s.putBit false)

/-- PadToByte() (R253): at most seven bits are wanting. -/
def State.padToByte (s : State) : State := s.padLoop 7

end Sys2Proof.Machine
end

