-- ==== Sys2Proof/Machine/Predictor.lean ====
section
/-! DEFINITION. The Context Predictor (spec 40_context_predictor.md). -/

namespace Sys2Proof.Machine

/-- PREDICT (R100). -/
def State.predict (s : State) : Byte := Memory.read s.cb s.ctx.toNat

/-- UPDATE (R101): only after a miss, with the ctx the prediction was read at (R104). -/
def State.update (c : Byte) (s : State) : State := { s with cb := Memory.write s.cb s.ctx.toNat c }

/-- The recurrence of ADVANCE (R102): an addition on 25 bits, of which 20 stay. -/
def nextCtx (ctx : Ctx) (c : Byte) : Ctx :=
  ((ctx.setWidth (Config.ctxBits + Config.ctxShift) <<< Config.ctxShift)
    + c.setWidth (Config.ctxBits + Config.ctxShift)).setWidth Config.ctxBits

/-- ADVANCE (R102). -/
def State.advance (c : Byte) (s : State) : State := { s with ctx := nextCtx s.ctx c }

end Sys2Proof.Machine
end

