-- ==== Sys2Proof/Machine/RankTracker.lean ====
section
/-! DEFINITION. The Symbol Rank Tracker (spec 43_rank_tracker.md), its comparisons as written (R167). The callers have
checked that no counter overflows (R163, R164). -/

namespace Sys2Proof.Machine

/-- MoveToFront(c) (R160), on the list: c leaves its place and comes first. -/
def RankTable.moveToFront (c : Byte) (t : RankTable) : RankTable :=
  { t with order := c :: t.order.eraseIdx (t.rankOf c) }

/-- OnMatchedByte(c) (R163). -/
def RankTable.onMatchedByte (c : Byte) (t : RankTable) : RankTable :=
  let t1 := t.bump c
  let t2 := if (t1.freqOf t1.anchor).toNat ≤ (t1.freqOf c).toNat then { t1 with anchor := c } else t1
  if t2.front ≠ t2.anchor then t2.moveToFront t2.anchor else t2

/-- The table after OnLiteralByte(c) (R164); the rank it returns is `rankOf c` before. -/
def RankTable.onLiteralByte (c : Byte) (t : RankTable) : RankTable :=
  let t1 := t.moveToFront c
  let t2 := t1.bump c
  if ¬((t2.freqOf c).toNat < (t2.freqOf t2.anchor).toNat ∧ t2.front ≠ c) then { t2 with anchor := c } else t2

/-- The tracker runs in rank mode only (amode = 2). -/
def State.trackMatch (c : Byte) (s : State) : State :=
  if s.amode = .rank then { s with rank := s.rank.onMatchedByte c } else s

/-- The check every caller makes before any effect of the byte c (60_exceptions.md R308). -/
abbrev State.freqOverflows (c : Byte) (s : State) : Prop := s.amode = .rank ∧ s.rank.freqFull c

end Sys2Proof.Machine
end

