-- ==== Sys2Proof/Machine/Coders.lean ====
section
/-! DEFINITION. The Run Encoder/Decoder and the Literal Coder (spec 41_run_coder.md, 42_literal_coder.md): what the
compress direction emits, and what the decompress direction does once a token is read. -/

namespace Sys2Proof.Machine

/-! ### Compress -/

/-- RUN_FLUSH (R121). -/
def State.runFlush (s : State) : State :=
  let s1 := if 0 < s.run.toNat then (s.putBit true).putVLC (s.run.toNat - 1) Config.runB else s.putBit false
  { s1 with run := 0 }

/-- RAW_LIT_ENCODE(c) (R140). -/
def State.rawLitEncode (c : Byte) (s : State) : State :=
  let s1 := s.putBits c.toNat 8
  if c = Config.rawSentinel then s1.putBit false else s1

/-- RAW_EOS_ENCODE (R141). -/
def State.rawEosEncode (s : State) : State := (s.putBits Config.rawSentinel.toNat 8).putBit true

/-- RANK_LIT_ENCODE(c) (R143): the rank before the move is coded. -/
def State.rankLitEncode (c : Byte) (s : State) : State :=
  { s with rank := s.rank.onLiteralByte c }.putVLC (s.rank.rankOf c) Config.rankB

/-- RANK_EOS_ENCODE (R144). -/
def State.rankEosEncode (s : State) : State := s.putVLC Config.rankEos Config.rankB

/-- The literal coder of the active mode (R146). -/
def State.litEncode (c : Byte) (s : State) : State :=
  if s.amode = .raw then s.rawLitEncode c else s.rankLitEncode c

/-- The end marker of the active mode (R146). -/
def State.eosEncode (s : State) : State := if s.amode = .raw then s.rawEosEncode else s.rankEosEncode

/-! ### Decompress -/

/-- The rest of RUN_DECODE (R122) after a run code: `rem` is the run's length L. -/
def State.beginRun (L : Nat) (s : State) : State := { s with rem := BitVec.ofNat Config.runW L, phase := .dReplay }

/-- The rest of RUN_DECODE (R122) after the flag 0. -/
def State.noRun (s : State) : State := { s with phase := .dLit }

/-- RUN_REPLAY_BYTE (R123), the step of phase D_REPLAY (44_stream_controller.md R188). -/
def State.replayByte (s : State) : State :=
  let c := s.predict
  if s.freqOverflows c then s.raise .freqOverflow
  else
    let s1 := ((s.emit c).trackMatch c).advance c
    let s2 := { s1 with rem := s1.rem - 1 }
    if s2.rem = 0 then { s2 with phase := .dLit } else s2

/-- DEC_LITERAL on Literal(c) (R189), after the literal decoder of its mode. -/
def State.literal (c : Byte) (s : State) : State :=
  { ((s.emit c).update c).advance c with phase := .dFlag }

/-- DEC_LITERAL on EndOfStream (R189): the rest of the current byte is padding. -/
def State.endOfStream (s : State) : State := { s with nleft := 0, phase := .dTail }

/-- A literal read in raw mode (R142, R189). -/
def State.rawLiteral (c : Byte) (s : State) : State := s.literal c

/-- A literal of rank n, 0 to 255, read in rank mode (R145, R189). -/
def State.rankLiteral (n : Nat) (s : State) : State :=
  let c := s.rank.symbolAt n
  if s.rank.freqFull c then s.raise .freqOverflow
  else { s with rank := s.rank.onLiteralByte c }.literal c

/-- A raw token runs at D_LIT in mode 1 (R146, R189). -/
def State.atRawLit (f : State → State) (s : State) : State :=
  if s.At .dLit ∧ s.amode = .raw then f s else s

/-- A rank token runs at D_LIT in the other mode (R146, R189). -/
def State.atRankLit (f : State → State) (s : State) : State :=
  if s.At .dLit ∧ s.amode ≠ .raw then f s else s

end Sys2Proof.Machine
end

