-- ==== Sys2Proof/Machine/Controller.lean ====
section
/-! DEFINITION. The steps of the Stream Controller (spec 44_stream_controller.md). -/

namespace Sys2Proof.Machine

/-! ### Compress -/

/-- START_COMPRESS (R180), after the CTRL write has stored the fields. The header (R181) is emitted last.
`hidx` is unspecified on compress (10_state.md R30, 93 U3): that it keeps its value is a DESIGN CHOICE (log 20). -/
def State.startCompress (s : State) : State :=
  let s0 := s.clearPorts 0
  if s.ctrlMode ≠ 1 ∧ s.ctrlMode ≠ 2 then { s0 with amode := .none }.raise .usage
  else
    let m : AMode := if s.ctrlMode = 1 then .raw else .rank
    let s1 := { s0.freshStream with amode := m }
    let s2 := ((s1.emit (Config.magic 0)).emit (Config.magic 1)).emit (Config.magic 2)
    { s2.emit m.byte with phase := .cBody }

/-- ENC_BYTE(c) (R182): both overflow checks come before any effect but the count, RUN_COUNTER_OVERFLOW first (R310). -/
def State.encByte (c : Byte) (s : State) : State :=
  let s0 := s.countIn
  if s0.predict = c then
    if s0.run.toNat = 2 ^ Config.runW - 1 then s0.raise .runCounterOverflow
    else if s0.freqOverflows c then s0.raise .freqOverflow
    else ({ s0 with run := s0.run + 1 }.trackMatch c).advance c
  else
    if s0.freqOverflows c then s0.raise .freqOverflow
    else ((s0.runFlush.litEncode c).update c).advance c

/-- ENC_END (R183). -/
def State.encEnd (s : State) : State := { s.runFlush.eosEncode.padToByte with phase := .cFinish }

/-! ### Decompress -/

/-- START_DECOMPRESS (R185). -/
def State.startDecompress (s : State) : State :=
  { (s.clearPorts 1).freshStream with amode := .none, hidx := 0, phase := .dHdr }

/-- DEC_HEADER_BYTE on one of the first three bytes (R186). -/
def State.headerMagic (b : Byte) (s : State) : State :=
  if h : s.hidx.toNat < 3 then
    if b ≠ Config.magic ⟨s.hidx.toNat, h⟩ then s.raise .format else { s with hidx := s.hidx + 1 }
  else s

/-- DEC_HEADER_BYTE on a fourth byte that names a mode (R186). -/
def State.headerMode (m : AMode) (s : State) : State :=
  if s.hidx.toNat < 3 then s else { s with amode := m, phase := .dFlag }

/-- DEC_HEADER_BYTE on any other fourth byte (R186, 60_exceptions.md R303). -/
def State.headerBad (s : State) : State := if s.hidx.toNat < 3 then s else s.raise .format

/-- DEC_TAIL_BEAT on a data beat (R190): the byte is counted and discarded. -/
def State.tailByte (s : State) : State := s.countIn

/-- DEC_TAIL_BEAT on END (R190). -/
def State.tailEnd (s : State) : State := { s with phase := .dFinish }

/-! ### Both directions -/

/-- COMPLETE (R191), once `outq` is empty. -/
def State.complete (s : State) : State := { s with st := .done, phase := .halt }

end Sys2Proof.Machine
end

