-- ==== Sys2Proof/Machine/Beats.lean ====
section
/-! DEFINITION. The beats of the two stream ports (spec 45_host_interface.md R222, R223). A beat the block does not
accept stays offered (R221, log 7). A beat that feeds a wait is handed to the paused operation, which the block then
goes on with before any other operation of the host (log 8). -/

namespace Sys2Proof.Machine

/-- GetByte (48_bitio_vlc.md R254) for DEC_HEADER_BYTE: the byte goes to the header check. -/
def State.feedHeader (d : Byte) (s : State) : State := { s.countIn with hdrByte := some d }

/-- GetByte inside GetBit (R255): the byte goes to the bit reader. -/
def State.feedBits (d : Byte) (s : State) : State := { s.countIn with cur := d, nleft := 8 }

/-- What a data beat does when the block accepts it (R222). -/
def State.acceptByte (d : Byte) (s : State) : State :=
  match s.phase with
  | .cBody => s.encByte d
  | .dHdr => s.feedHeader d
  | .dFlag => s.feedBits d
  | .dLit => s.feedBits d
  | .dTail => s.tailByte
  | .halt => s
  | .cFinish => s
  | .dReplay => s
  | .dFinish => s

/-- What an END beat does when the block accepts it (R222): GetByte raises UNEXPECTED_END (R254, 60_exceptions.md R304). -/
def State.acceptEnd (s : State) : State :=
  match s.phase with
  | .cBody => s.encEnd
  | .dHdr => s.raise .unexpectedEnd
  | .dFlag => s.raise .unexpectedEnd
  | .dLit => s.raise .unexpectedEnd
  | .dTail => s.tailEnd
  | .halt => s
  | .cFinish => s
  | .dReplay => s
  | .dFinish => s

/-- IN d (R222). -/
def execInData (d : Byte) (s : State) : Res :=
  .next (if s.inReady then s.acceptByte d else s.hold (.beat (0#1 ++ d)))

/-- IN END (R222); in_data is ignored (30_encoding.md R81). -/
def execInEnd (x : Byte) (s : State) : Res :=
  .next (if s.inReady then s.acceptEnd else s.hold (.beat (1#1 ++ x)))

/-- OUT (R223): the offered byte, `State.outData`, goes to the host; the host waits while none is offered
(30_encoding.md R82). -/
def execOut (s : State) : Res :=
  match s.outq with
  | [] => .next (s.hold .take)
  | b :: q => .next { s with outq := q, outCount := s.outCount + 1, taken := b }

end Sys2Proof.Machine
end

