-- ==== Sys2Proof/Machine/Commands.lean ====
section
/-! DEFINITION. The CTRL writes (spec 45_host_interface.md R225, 30_encoding.md R80). -/

namespace Sys2Proof.Machine

/-- WR CTRL (R225): ignored while BUSY; else the fields are stored and `act` follows. -/
def State.writeCtrl (dir : BitVec 1) (mode : BitVec 2) (act : State → State) (s : State) : State :=
  if s.st = .busy then s else act { s with ctrlDir := dir, ctrlMode := mode }

/-- CFG: the fields are stored and nothing starts. -/
def execCfg (dir : BitVec 1) (mode : BitVec 2) (s : State) : Res := .next (s.writeCtrl dir mode id)

/-- START_C_RAW (R180). -/
def execStartCRaw (s : State) : Res := .next (s.writeCtrl 0 1 State.startCompress)

/-- START_C_RANK (R180). -/
def execStartCRank (s : State) : Res := .next (s.writeCtrl 0 2 State.startCompress)

/-- START_C_BAD, MODE = 0: USAGE (60_exceptions.md R301). -/
def execStartCBad0 (s : State) : Res := .next (s.writeCtrl 0 0 State.startCompress)

/-- START_C_BAD, MODE = 3: USAGE (60_exceptions.md R301). -/
def execStartCBad3 (s : State) : Res := .next (s.writeCtrl 0 3 State.startCompress)

/-- START_D (R185): MODE is stored and otherwise ignored. -/
def execStartD (mode : BitVec 2) (s : State) : Res := .next (s.writeCtrl 1 mode State.startDecompress)

end Sys2Proof.Machine
end

