-- ==== Sys2Proof/Machine/FlagTokens.lean ====
section
/-! DEFINITION. The flag tokens, read in phase D_FLAG by RUN_DECODE (spec 41_run_coder.md R122, 30_encoding.md R73,
R75). -/

namespace Sys2Proof.Machine

/-- F0: no run. -/
def execF0 (t : State) : Res := .next (t.atPhase .dFlag State.noRun)

/-- F1_K0: a run of 1. -/
def execF1K0 (t : State) : Res := .next (t.atPhase .dFlag (State.beginRun 1))

/-- F1_K1: a run of 2^1 + s. -/
def execF1K1 (s : BitVec 1) (t : State) : Res := .next (t.atPhase .dFlag (State.beginRun (2 ^ 1 + s.toNat)))

/-- F1_K2: a run of 2^2 + s. -/
def execF1K2 (s : BitVec 2) (t : State) : Res := .next (t.atPhase .dFlag (State.beginRun (2 ^ 2 + s.toNat)))

/-- F1_K3: a run of 2^3 + s. -/
def execF1K3 (s : BitVec 3) (t : State) : Res := .next (t.atPhase .dFlag (State.beginRun (2 ^ 3 + s.toNat)))

/-- F1_K4: a run of 2^4 + s. -/
def execF1K4 (s : BitVec 4) (t : State) : Res := .next (t.atPhase .dFlag (State.beginRun (2 ^ 4 + s.toNat)))

/-- F1_K5: a run of 2^5 + s. -/
def execF1K5 (s : BitVec 5) (t : State) : Res := .next (t.atPhase .dFlag (State.beginRun (2 ^ 5 + s.toNat)))

/-- F1_K6: a run of 2^6 + s. -/
def execF1K6 (s : BitVec 6) (t : State) : Res := .next (t.atPhase .dFlag (State.beginRun (2 ^ 6 + s.toNat)))

/-- F1_K7: a run of 2^7 + s. -/
def execF1K7 (s : BitVec 7) (t : State) : Res := .next (t.atPhase .dFlag (State.beginRun (2 ^ 7 + s.toNat)))

/-- F1_K8: a run of 2^8 + s. -/
def execF1K8 (s : BitVec 8) (t : State) : Res := .next (t.atPhase .dFlag (State.beginRun (2 ^ 8 + s.toNat)))

/-- F1_K9: a run of 2^9 + s. -/
def execF1K9 (s : BitVec 9) (t : State) : Res := .next (t.atPhase .dFlag (State.beginRun (2 ^ 9 + s.toNat)))

/-- F1_K10: a run of 2^10 + s. -/
def execF1K10 (s : BitVec 10) (t : State) : Res := .next (t.atPhase .dFlag (State.beginRun (2 ^ 10 + s.toNat)))

/-- F1_K11: a run of 2^11 + s. -/
def execF1K11 (s : BitVec 11) (t : State) : Res := .next (t.atPhase .dFlag (State.beginRun (2 ^ 11 + s.toNat)))

/-- F1_K12: a run of 2^12 + s. -/
def execF1K12 (s : BitVec 12) (t : State) : Res := .next (t.atPhase .dFlag (State.beginRun (2 ^ 12 + s.toNat)))

/-- F1_K13: a run of 2^13 + s. -/
def execF1K13 (s : BitVec 13) (t : State) : Res := .next (t.atPhase .dFlag (State.beginRun (2 ^ 13 + s.toNat)))

/-- F1_K14: a run of 2^14 + s. -/
def execF1K14 (s : BitVec 14) (t : State) : Res := .next (t.atPhase .dFlag (State.beginRun (2 ^ 14 + s.toNat)))

/-- F1_K15: a run of 2^15 + s. -/
def execF1K15 (s : BitVec 15) (t : State) : Res := .next (t.atPhase .dFlag (State.beginRun (2 ^ 15 + s.toNat)))

/-- F1_K16: a run of 2^16 + s. -/
def execF1K16 (s : BitVec 16) (t : State) : Res := .next (t.atPhase .dFlag (State.beginRun (2 ^ 16 + s.toNat)))

/-- F1_K17: a run of 2^17 + s. -/
def execF1K17 (s : BitVec 17) (t : State) : Res := .next (t.atPhase .dFlag (State.beginRun (2 ^ 17 + s.toNat)))

/-- F1_K18: a run of 2^18 + s. -/
def execF1K18 (s : BitVec 18) (t : State) : Res := .next (t.atPhase .dFlag (State.beginRun (2 ^ 18 + s.toNat)))

/-- F1_K19: a run of 2^19 + s. -/
def execF1K19 (s : BitVec 19) (t : State) : Res := .next (t.atPhase .dFlag (State.beginRun (2 ^ 19 + s.toNat)))

/-- F1_K20: a run of 2^20 + s. -/
def execF1K20 (s : BitVec 20) (t : State) : Res := .next (t.atPhase .dFlag (State.beginRun (2 ^ 20 + s.toNat)))

/-- F1_K21: a run of 2^21 + s. -/
def execF1K21 (s : BitVec 21) (t : State) : Res := .next (t.atPhase .dFlag (State.beginRun (2 ^ 21 + s.toNat)))

/-- F1_K22: a run of 2^22 + s. -/
def execF1K22 (s : BitVec 22) (t : State) : Res := .next (t.atPhase .dFlag (State.beginRun (2 ^ 22 + s.toNat)))

/-- F1_K23: a run of 2^23 + s. -/
def execF1K23 (s : BitVec 23) (t : State) : Res := .next (t.atPhase .dFlag (State.beginRun (2 ^ 23 + s.toNat)))

/-- F1_K24: a run of 2^24 + s. -/
def execF1K24 (s : BitVec 24) (t : State) : Res := .next (t.atPhase .dFlag (State.beginRun (2 ^ 24 + s.toNat)))

/-- F1_K25: a run of 2^25 + s. -/
def execF1K25 (s : BitVec 25) (t : State) : Res := .next (t.atPhase .dFlag (State.beginRun (2 ^ 25 + s.toNat)))

/-- F1_K26: a run of 2^26 + s. -/
def execF1K26 (s : BitVec 26) (t : State) : Res := .next (t.atPhase .dFlag (State.beginRun (2 ^ 26 + s.toNat)))

/-- F1_K27: a run of 2^27 + s. -/
def execF1K27 (s : BitVec 27) (t : State) : Res := .next (t.atPhase .dFlag (State.beginRun (2 ^ 27 + s.toNat)))

/-- F1_K28: a run of 2^28 + s. -/
def execF1K28 (s : BitVec 28) (t : State) : Res := .next (t.atPhase .dFlag (State.beginRun (2 ^ 28 + s.toNat)))

/-- F1_K29: a run of 2^29 + s. -/
def execF1K29 (s : BitVec 29) (t : State) : Res := .next (t.atPhase .dFlag (State.beginRun (2 ^ 29 + s.toNat)))

/-- F1_K30: a run of 2^30 + s. -/
def execF1K30 (s : BitVec 30) (t : State) : Res := .next (t.atPhase .dFlag (State.beginRun (2 ^ 30 + s.toNat)))

/-- F1_K31: a run of 2^31 + s. -/
def execF1K31 (s : BitVec 31) (t : State) : Res := .next (t.atPhase .dFlag (State.beginRun (2 ^ 31 + s.toNat)))

/-- RUN_OVF: RUN_LENGTH_OVERFLOW (60_exceptions.md R306). -/
def execRunOvf (t : State) : Res := .next (t.atPhase .dFlag (State.raise .runLengthOverflow))

end Sys2Proof.Machine
end

