-- ==== Sys2Proof/Machine/HeaderTokens.lean ====
section
/-! DEFINITION. The header bytes, read in phase D_HDR (spec 44_stream_controller.md R186, 30_encoding.md R71). -/

namespace Sys2Proof.Machine

/-- HDR_MAGIC: one byte of the tag, at place hidx; FORMAT if it differs (60_exceptions.md R302). -/
def execHdrMagic (b : Byte) (s : State) : Res := .next (s.atPhase .dHdr (State.headerMagic b))

/-- HDR_MODE_RAW. -/
def execHdrModeRaw (s : State) : Res := .next (s.atPhase .dHdr (State.headerMode .raw))

/-- HDR_MODE_RANK. -/
def execHdrModeRank (s : State) : Res := .next (s.atPhase .dHdr (State.headerMode .rank))

/-- HDR_MODE_BAD: FORMAT (60_exceptions.md R303). -/
def execHdrModeBad (_b : Byte) (s : State) : Res := .next (s.atPhase .dHdr State.headerBad)

end Sys2Proof.Machine
end

