-- ==== Sys2Proof/Machine/LiteralTokens.lean ====
section
/-! DEFINITION. The literal and end tokens, read in phase D_LIT by DEC_LITERAL (spec 44_stream_controller.md R189,
42_literal_coder.md R142, R145, 30_encoding.md R75 to R77), and the padding after them. -/

namespace Sys2Proof.Machine

/-- LIT8 b. -/
def execLit8 (b : Byte) (t : State) : Res := .next (t.atRawLit (State.rawLiteral b))

/-- LITFF: the literal 0xFF. -/
def execLitFF (t : State) : Res := .next (t.atRawLit (State.rawLiteral Config.rawSentinel))

/-- EOS_RAW. -/
def execEosRaw (t : State) : Res := .next (t.atRawLit State.endOfStream)

/-- RLIT_K0: rank s. -/
def execRlitK0 (s : BitVec 3) (t : State) : Res := .next (t.atRankLit (State.rankLiteral s.toNat))

/-- RLIT_K1: rank 8 + s. -/
def execRlitK1 (s : BitVec 4) (t : State) : Res := .next (t.atRankLit (State.rankLiteral (8 + s.toNat)))

/-- RLIT_K2: rank 24 + s. -/
def execRlitK2 (s : BitVec 5) (t : State) : Res := .next (t.atRankLit (State.rankLiteral (24 + s.toNat)))

/-- RLIT_K3: rank 56 + s. -/
def execRlitK3 (s : BitVec 6) (t : State) : Res := .next (t.atRankLit (State.rankLiteral (56 + s.toNat)))

/-- RLIT_K4: rank 120 + s. -/
def execRlitK4 (s : BitVec 7) (t : State) : Res := .next (t.atRankLit (State.rankLiteral (120 + s.toNat)))

/-- RLIT_K5: rank 248 + s. -/
def execRlitK5 (s : BitVec 3) (t : State) : Res := .next (t.atRankLit (State.rankLiteral (248 + s.toNat)))

/-- EOS_RANK. -/
def execEosRank (t : State) : Res := .next (t.atRankLit State.endOfStream)

/-- BAD_RANK_K5: BAD_RANK after the suffix (60_exceptions.md R305). -/
def execBadRankK5 (_s : BitVec 8) (t : State) : Res := .next (t.atRankLit (State.raise .badRank))

/-- BAD_RANK_PREFIX: BAD_RANK on the sixth one-bit (60_exceptions.md R305). -/
def execBadRankPrefix (t : State) : Res := .next (t.atRankLit (State.raise .badRank))

/-- PAD: the bits after the end marker in its byte are discarded, whatever they are (R190, log 12). -/
def execPad (_n : Fin 8) (t : State) : Res :=
  .next (t.atPhase .dTail (fun t => { t with nleft := 0 }))

end Sys2Proof.Machine
end

