-- ==== Sys2Proof/Machine/Registers.lean ====
section
/-! DEFINITION. Register reads, and writes to any address but CTRL's (spec 45_host_interface.md R224, R226). -/

namespace Sys2Proof.Machine

/-- RD (R224): the value on csr_rdata; no other effect. -/
def State.readReg (v : Word) (s : State) : State := { s with csrRdata := v }

/-- RD CTRL. -/
def execRdCtrl (s : State) : Res := .next (s.readReg s.ctrlReg)

/-- RD STATUS. -/
def execRdStatus (s : State) : Res := .next (s.readReg s.statusReg)

/-- RD IN_COUNT (10_state.md R38). -/
def execRdInCount (s : State) : Res := .next (s.readReg (s.inCount.setWidth 32))

/-- RD OUT_COUNT (10_state.md R39). -/
def execRdOutCount (s : State) : Res := .next (s.readReg (s.outCount.setWidth 32))

/-- RD of an unmapped address: reads 0 (20_memory.md R63). -/
def execRdUnmapped (_addr : BitVec 8) (s : State) : Res := .next (s.readReg 0)

/-- WR STATUS: no effect (R226). -/
def execWrStatus (_wdata : Word) (s : State) : Res := .next s

/-- WR IN_COUNT: no effect (R226). -/
def execWrInCount (_wdata : Word) (s : State) : Res := .next s

/-- WR OUT_COUNT: no effect (R226). -/
def execWrOutCount (_wdata : Word) (s : State) : Res := .next s

/-- WR to an unmapped address: no effect (R226). -/
def execWrUnmapped (_addr : BitVec 8) (_wdata : Word) (s : State) : Res := .next s

end Sys2Proof.Machine
end

