-- ==== Sys2Proof/Machine/Dispatch.lean ====
section
/-! DEFINITION. One arm per operation or token of spec/opcode_table.json. -/

namespace Sys2Proof.Machine

def exec (i : Instr) (s : State) : Host.Outcome State Fault Refusal :=
  match i with
  | .cfg dir mode => Sys2Proof.Machine.execCfg dir mode s
  | .startCRaw => Sys2Proof.Machine.execStartCRaw s
  | .startCRank => Sys2Proof.Machine.execStartCRank s
  | .startCBad0 => Sys2Proof.Machine.execStartCBad0 s
  | .startCBad3 => Sys2Proof.Machine.execStartCBad3 s
  | .startD mode => Sys2Proof.Machine.execStartD mode s
  | .rdCtrl => Sys2Proof.Machine.execRdCtrl s
  | .rdStatus => Sys2Proof.Machine.execRdStatus s
  | .rdInCount => Sys2Proof.Machine.execRdInCount s
  | .rdOutCount => Sys2Proof.Machine.execRdOutCount s
  | .rdUnmapped addr => Sys2Proof.Machine.execRdUnmapped addr s
  | .wrStatus wdata => Sys2Proof.Machine.execWrStatus wdata s
  | .wrInCount wdata => Sys2Proof.Machine.execWrInCount wdata s
  | .wrOutCount wdata => Sys2Proof.Machine.execWrOutCount wdata s
  | .wrUnmapped addr wdata => Sys2Proof.Machine.execWrUnmapped addr wdata s
  | .inData d => Sys2Proof.Machine.execInData d s
  | .inEnd x => Sys2Proof.Machine.execInEnd x s
  | .out => Sys2Proof.Machine.execOut s
  | .hdrMagic b => Sys2Proof.Machine.execHdrMagic b s
  | .hdrModeRaw => Sys2Proof.Machine.execHdrModeRaw s
  | .hdrModeRank => Sys2Proof.Machine.execHdrModeRank s
  | .hdrModeBad b => Sys2Proof.Machine.execHdrModeBad b s
  | .f0 => Sys2Proof.Machine.execF0 s
  | .f1K0 => Sys2Proof.Machine.execF1K0 s
  | .f1K1 n => Sys2Proof.Machine.execF1K1 n s
  | .f1K2 n => Sys2Proof.Machine.execF1K2 n s
  | .f1K3 n => Sys2Proof.Machine.execF1K3 n s
  | .f1K4 n => Sys2Proof.Machine.execF1K4 n s
  | .f1K5 n => Sys2Proof.Machine.execF1K5 n s
  | .f1K6 n => Sys2Proof.Machine.execF1K6 n s
  | .f1K7 n => Sys2Proof.Machine.execF1K7 n s
  | .f1K8 n => Sys2Proof.Machine.execF1K8 n s
  | .f1K9 n => Sys2Proof.Machine.execF1K9 n s
  | .f1K10 n => Sys2Proof.Machine.execF1K10 n s
  | .f1K11 n => Sys2Proof.Machine.execF1K11 n s
  | .f1K12 n => Sys2Proof.Machine.execF1K12 n s
  | .f1K13 n => Sys2Proof.Machine.execF1K13 n s
  | .f1K14 n => Sys2Proof.Machine.execF1K14 n s
  | .f1K15 n => Sys2Proof.Machine.execF1K15 n s
  | .f1K16 n => Sys2Proof.Machine.execF1K16 n s
  | .f1K17 n => Sys2Proof.Machine.execF1K17 n s
  | .f1K18 n => Sys2Proof.Machine.execF1K18 n s
  | .f1K19 n => Sys2Proof.Machine.execF1K19 n s
  | .f1K20 n => Sys2Proof.Machine.execF1K20 n s
  | .f1K21 n => Sys2Proof.Machine.execF1K21 n s
  | .f1K22 n => Sys2Proof.Machine.execF1K22 n s
  | .f1K23 n => Sys2Proof.Machine.execF1K23 n s
  | .f1K24 n => Sys2Proof.Machine.execF1K24 n s
  | .f1K25 n => Sys2Proof.Machine.execF1K25 n s
  | .f1K26 n => Sys2Proof.Machine.execF1K26 n s
  | .f1K27 n => Sys2Proof.Machine.execF1K27 n s
  | .f1K28 n => Sys2Proof.Machine.execF1K28 n s
  | .f1K29 n => Sys2Proof.Machine.execF1K29 n s
  | .f1K30 n => Sys2Proof.Machine.execF1K30 n s
  | .f1K31 n => Sys2Proof.Machine.execF1K31 n s
  | .runOvf => Sys2Proof.Machine.execRunOvf s
  | .lit8 b => Sys2Proof.Machine.execLit8 b s
  | .litFF => Sys2Proof.Machine.execLitFF s
  | .eosRaw => Sys2Proof.Machine.execEosRaw s
  | .rlitK0 n => Sys2Proof.Machine.execRlitK0 n s
  | .rlitK1 n => Sys2Proof.Machine.execRlitK1 n s
  | .rlitK2 n => Sys2Proof.Machine.execRlitK2 n s
  | .rlitK3 n => Sys2Proof.Machine.execRlitK3 n s
  | .rlitK4 n => Sys2Proof.Machine.execRlitK4 n s
  | .rlitK5 n => Sys2Proof.Machine.execRlitK5 n s
  | .eosRank => Sys2Proof.Machine.execEosRank s
  | .badRankK5 n => Sys2Proof.Machine.execBadRankK5 n s
  | .badRankPrefix => Sys2Proof.Machine.execBadRankPrefix s
  | .pad n => Sys2Proof.Machine.execPad n s

end Sys2Proof.Machine
end

