-- ==== Sys2Proof/Machine/Fetch.lean ====
section
/-! DEFINITION. What the block does next on its own, who moves, and how a table word is placed where the next step
reads it. The operations Step.lean puts together. -/

namespace Sys2Proof.Machine

/-! ### The block's own step -/

/-- The block has a step it can take without the host (44_stream_controller.md R192): the operation of its phase has
what it waits for. -/
def State.blockEnabled (s : State) : Bool :=
  s.st == .busy &&
  match s.phase with
  | .dHdr => s.hdrByte.isSome
  | .dFlag => s.nleft != 0
  | .dLit => s.nleft != 0
  | .dReplay => true
  | .dTail => s.nleft != 0
  | .cFinish => s.outq.isEmpty
  | .dFinish => s.outq.isEmpty
  | .cBody => false
  | .halt => false

/-- A step is under way and has what it waited for: a beat was handed to its GetByte and nothing has been done with
it yet, or bits were read and more are at hand. No operation of the host comes in between (00_scope.md R8, log 8). -/
def State.midStep (s : State) : Bool :=
  s.st == .busy &&
  match s.phase with
  | .dHdr => s.hdrByte.isSome
  | .dFlag => s.nleft == 8 || (s.nleft != 0 && !s.tok.isEmpty)
  | .dLit => s.nleft == 8 || (s.nleft != 0 && !s.tok.isEmpty)
  | .halt => false
  | .cBody => false
  | .cFinish => false
  | .dReplay => false
  | .dTail => false
  | .dFinish => false

/-- The token the bits at the bit reader's place begin with (R122, R189): a flag, or a literal of the active mode. -/
def State.decodeToken (s : State) (bs : List Bool) : Get Instr :=
  if s.phase = .dFlag then decodeFlag bs else if s.amode = .raw then decodeRaw bs else decodeRank bs

/-- What the block fetches: an instruction and the state with it taken off the input, or nothing yet. -/
inductive Fetched where
  | instr (i : Instr) (s : State)
  | moved (s : State)
deriving DecidableEq, Repr

/-- Read bits for the token at hand (GetBit, R255): all it needs, or all there are and then wait (R7). -/
def State.fetchToken (s : State) : Fetched :=
  match s.decodeToken (s.tok ++ s.unread) with
  | .got i rest => .instr i { s with tok := [], nleft := Fin.ofNat 9 rest.length }
  | .wait => .moved { s with tok := s.tok ++ s.unread, nleft := 0 }
  | .bad _ => .moved s

/-- The block's step at an enabled phase: a token or header byte to run, or a step with no row in the table
(DEC_REPLAY_BYTE R188, COMPLETE R191). -/
def State.fetch (s : State) : Fetched :=
  match s.phase with
  | .dHdr =>
    match s.hdrByte with
    | some b => .instr (decodeHeader s.hidx b) { s with hdrByte := none }
    | none => .moved s
  | .dFlag => s.fetchToken
  | .dLit => s.fetchToken
  | .dReplay => .moved s.replayByte
  | .dTail => .instr (.pad (Fin.ofNat 8 s.nleft.val)) s
  | .cFinish => .moved s.complete
  | .dFinish => .moved s.complete
  | .cBody => .moved s
  | .halt => .moved s

/-! ### Who moves -/

/-- Both could move, and the spec leaves open who does (R9, R228, R349; log 6). -/
def State.contested (s : State) : Bool := s.blockEnabled && !s.midStep && !s.host.isEmpty

/-- Who moves. -/
def State.nextAgent (s : State) : Agent :=
  if s.contested then s.turns.headD .block
  else if s.midStep || s.host.isEmpty then .block
  else .host

/-- A choice that was made is used up. -/
def State.useTurn (s : State) : State := if s.contested then { s with turns := s.turns.tail } else s

/-! ### Placing a table word -/

/-- No operation of the block is half done. -/
def State.settle (s : State) : State :=
  if s.midStep then { s with tok := [], hdrByte := none, nleft := 0 } else s

/-- Agent a moves next where there is a choice. -/
def State.giveTurn (a : Agent) (s : State) : State :=
  if s.contested then { s with turns := a :: s.turns } else s

/-- A host operation stands first in the host's list. -/
def State.placeHost (op : HostOp) (s : State) : State :=
  let s1 := s.settle
  { s1 with host := op :: s1.host }.giveTurn .host

/-- Bits stand at the bit reader's place at phase p: the last eight in the input byte, those before them read already. -/
def State.placeBits (p : Phase) (bits : List Bool) (s : State) : State :=
  let n := min 8 bits.length
  { s with st := .busy, phase := p, tok := bits.take (bits.length - n)
           cur := packUnread Config.packOrder (bits.drop (bits.length - n))
           nleft := Fin.ofNat 9 n }.giveTurn .block

/-- A byte stands at the header check, as number k. -/
def State.placeHeader (k : BitVec 2) (b : Byte) (s : State) : State :=
  { s with st := .busy, phase := .dHdr, hidx := k, hdrByte := some b }

/-- A code stands where the next step reads it. -/
def State.place (c : Code) (s : State) : State :=
  match c with
  | .host op => s.placeHost op
  | .headerMagic b => s.placeHeader 0 b
  | .headerMode b => s.placeHeader 3 b
  | .flag bits => s.placeBits .dFlag bits
  | .raw bits => { s with amode := .raw }.placeBits .dLit bits
  | .rank bits => { s with amode := .rank }.placeBits .dLit bits
  | .padding bits => s.placeBits .dTail bits

end Sys2Proof.Machine
end

