-- ==== Sys2Proof/Machine/Step.lean ====
section
/-! DEFINITION. One step: the block's own, or the host's next operation. -/

namespace Sys2Proof.Machine

/-- The block's step, when it has one; else nothing happens. -/
def blockStep (s : State) : Res :=
  if s.blockEnabled then
    match s.fetch with
    | .instr i t => exec i t
    | .moved t => .next t
  else .next s

/-- The host's next operation takes effect; the reset input is the one that is no row of the table. -/
def hostStep (s : State) : Res :=
  match s.host with
  | [] => .next s
  | op :: rest =>
    match decodeHost op with
    | some i => exec i { s with host := rest }
    | none => .next { s with host := rest }.applyReset

/-- One step of the block and its host. -/
def step (s : State) : Host.Outcome State Fault Refusal :=
  match s.nextAgent with
  | .block => blockStep s.useTurn
  | .host => hostStep s.useTurn

/-- The state with the instruction of a table word (bit numbering and width of spec/opcode_table.json) where the next
step reads it (log 14); unchanged where the word is none. -/
def State.withFetchWord (s : State) (nbits w : Nat) : State :=
  match decodeTableWord nbits w with
  | some i => s.place (encode i)
  | none => s

end Sys2Proof.Machine
end

