-- ==== Sys2Proof/Safety.lean ====
section
/-! DEFINITION. What every state of a run satisfies (spec 10_state.md R35, 43_rank_tracker.md R166 and what
44_stream_controller.md R192 says of the phases), and what a step that did not fail is. -/

namespace Sys2Proof.Machine

/-- `order` is a permutation of 0..255 (R35 item 1): 256 symbols, none twice. -/
abbrev RankTable.Perm (t : RankTable) : Prop := t.order.length = 256 ∧ t.order.Nodup

/-- Where a phase stands: its direction (R30), and whether the header has given the mode yet (R27). -/
def Phase.agrees (p : Phase) (dir : BitVec 1) (m : AMode) : Prop :=
  match p with
  | .halt => True
  | .cBody => dir = 0 ∧ m ≠ .none
  | .cFinish => dir = 0 ∧ m ≠ .none
  | .dHdr => dir = 1 ∧ m = .none
  | .dFlag => dir = 1 ∧ m ≠ .none
  | .dReplay => dir = 1 ∧ m ≠ .none
  | .dLit => dir = 1 ∧ m ≠ .none
  | .dTail => dir = 1 ∧ m ≠ .none
  | .dFinish => dir = 1 ∧ m ≠ .none

/-- The invariant of a run. Item 5 of R35 is not claimed in STATE = ERROR: R309 keeps `run` and `rem` as they were at
the raise (log 17). -/
structure State.Inv (s : State) : Prop where
  /-- The ContextBuffer is in canonical form, every index below 2^20 (R21, R50). -/
  memory : Memory.wf s.cb = true
  /-- R35 item 1. -/
  perm : s.rank.Perm
  /-- R35 item 2, R166. -/
  front : s.rank.anchor = s.rank.front
  /-- R35 item 3: in raw mode the rank table keeps its START values. -/
  rawTable : s.amode = .raw → s.rank = RankTable.initial
  /-- A step may begin only while BUSY: the phase is HALT in every other STATE (R30). -/
  busy : s.st = .busy ↔ s.phase ≠ .halt
  /-- ERR is 0 unless STATE = ERROR (R37). -/
  err : s.st = .error ↔ s.err ≠ .none
  /-- Nothing waits for the host once a stream is over (R191, R309). -/
  drained : s.st ≠ .busy → s.outq = []
  /-- The phases of a direction, and AMODE 0 exactly until the fourth header byte (R27, R347). -/
  place : s.phase.agrees s.adir s.amode
  /-- R35 item 5, compress. -/
  run : s.st ≠ .error → s.phase ≠ .cBody → s.run = 0
  /-- R35 item 5, decompress, and a replay has bytes left (R123). -/
  rem : s.st ≠ .error → (s.phase = .dReplay ↔ s.rem ≠ 0)
  /-- The bit reader holds bits only while tokens are read or a run is replayed (R186, R189). -/
  reader : s.st = .busy → s.nleft ≠ 0 → s.phase = .dFlag ∨ s.phase = .dReplay ∨ s.phase = .dLit
  /-- A paused token is a token begun and not complete (R7, R255). -/
  paused : s.tok ≠ [] → (s.phase = .dFlag ∨ s.phase = .dLit) ∧ s.decodeToken s.tok = .wait
  /-- The header check holds a byte only in D_HDR (R186). -/
  header : s.hdrByte ≠ none → s.phase = .dHdr
  /-- Nothing is decoded before the header is checked (60_exceptions.md R303). -/
  untouched : s.phase = .dHdr → s.cb = [] ∧ s.ctx = 0 ∧ s.rank = RankTable.initial

/-- A step is safe when it does not enter STATE = ERROR: the block failed only if it did (R300). -/
def SafeStep (s : State) : Prop :=
  match step s with
  | .next t => t.st = .error → s.st = .error
  | .fault _ => False
  | .refused _ => False

end Sys2Proof.Machine
end

