-- ==== Sys2Proof/Certificates/Slice0/Obligations.lean ====
section
/-! DEFINITION. What is claimed of the model, for the provers. Each statement's docstring names the rules of spec/ it
formalises. A statement of the form exec i s = .next { s with … } is also that operation's frame: every field it does
not name, the ContextBuffer, the rank table, every register and counter among them, is as before. -/

namespace Sys2Proof.Claims

open Sys2Proof.Machine

/-! ### Words the statements use -/

/-- The bits of a byte in stream order, MSB_FIRST (20_memory.md R54). -/
def byteBits (b : Byte) : List Bool := bitsOfNat 8 b.toNat

/-- Every bit written and not yet taken by the host: the queued bytes, then the filled bits of `acc` (R31, R54). -/
def written (s : State) : List Bool := s.outq.flatMap byteBits ++ (byteBits s.acc).take s.nacc.val

/-- VLC(n, B) as 30_encoding.md R74 writes it, with its class k: 1^k, 0, and B + k bits. -/
def vlcCode (k n B : Nat) : List Bool :=
  List.replicate k true ++ false :: bitsOfNat (B + k) (n - 2 ^ B * (2 ^ k - 1))

/-- The class of n in R74: the k with 2^B (2^k - 1) ≤ n < 2^B (2^(k+1) - 1). -/
def inClass (k n B : Nat) : Prop := 2 ^ B * (2 ^ k - 1) ≤ n ∧ n < 2 ^ B * (2 ^ (k + 1) - 1)

/-- The state after `raise e` (60_exceptions.md R309); `tok` and `hdrByte` are the model's own. -/
def failed (e : ErrCode) (s : State) : State :=
  { s with err := e, st := .error, phase := .halt, outq := [], tok := [], hdrByte := none }

/-- The bytes of a header (30_encoding.md R70). -/
def header (m : Byte) : List Byte := [Config.magic 0, Config.magic 1, Config.magic 2, m]

/-- The state right after a START of a compress stream (44_stream_controller.md R180), from s with the fields stored. -/
def compressing (mode : BitVec 2) (m : AMode) (s : State) : State :=
  { s with ctrlDir := 0, ctrlMode := mode, inCount := 0, outCount := 0, adir := 0, cb := [], ctx := 0, run := 0
           rem := 0, rank := RankTable.initial, acc := 0, nacc := 0, nleft := 0, amode := m, err := .none
           st := .busy, outq := header (m.code.setWidth 8), phase := .cBody, tok := [], hdrByte := none }

/-- The state right after a START of a decompress stream (44_stream_controller.md R185). -/
def decompressing (mode : BitVec 2) (s : State) : State :=
  { s with ctrlDir := 1, ctrlMode := mode, inCount := 0, outCount := 0, adir := 1, outq := [], cb := [], ctx := 0
           run := 0, rem := 0, rank := RankTable.initial, acc := 0, nacc := 0, nleft := 0, amode := .none
           err := .none, st := .busy, hidx := 0, phase := .dHdr, tok := [], hdrByte := none }

/-- The run length a flag token F1 stands for (30_encoding.md R73, R75). -/
def runOf : Instr → Option Nat
  | .f1K0 => some 1
  | .f1K1 s => some (2 ^ 1 + s.toNat) | .f1K2 s => some (2 ^ 2 + s.toNat) | .f1K3 s => some (2 ^ 3 + s.toNat)
  | .f1K4 s => some (2 ^ 4 + s.toNat) | .f1K5 s => some (2 ^ 5 + s.toNat) | .f1K6 s => some (2 ^ 6 + s.toNat)
  | .f1K7 s => some (2 ^ 7 + s.toNat) | .f1K8 s => some (2 ^ 8 + s.toNat) | .f1K9 s => some (2 ^ 9 + s.toNat)
  | .f1K10 s => some (2 ^ 10 + s.toNat) | .f1K11 s => some (2 ^ 11 + s.toNat) | .f1K12 s => some (2 ^ 12 + s.toNat)
  | .f1K13 s => some (2 ^ 13 + s.toNat) | .f1K14 s => some (2 ^ 14 + s.toNat) | .f1K15 s => some (2 ^ 15 + s.toNat)
  | .f1K16 s => some (2 ^ 16 + s.toNat) | .f1K17 s => some (2 ^ 17 + s.toNat) | .f1K18 s => some (2 ^ 18 + s.toNat)
  | .f1K19 s => some (2 ^ 19 + s.toNat) | .f1K20 s => some (2 ^ 20 + s.toNat) | .f1K21 s => some (2 ^ 21 + s.toNat)
  | .f1K22 s => some (2 ^ 22 + s.toNat) | .f1K23 s => some (2 ^ 23 + s.toNat) | .f1K24 s => some (2 ^ 24 + s.toNat)
  | .f1K25 s => some (2 ^ 25 + s.toNat) | .f1K26 s => some (2 ^ 26 + s.toNat) | .f1K27 s => some (2 ^ 27 + s.toNat)
  | .f1K28 s => some (2 ^ 28 + s.toNat) | .f1K29 s => some (2 ^ 29 + s.toNat) | .f1K30 s => some (2 ^ 30 + s.toNat)
  | .f1K31 s => some (2 ^ 31 + s.toNat)
  | _ => none

/-- The rank a token RLIT stands for (30_encoding.md R75, R77). -/
def rankOfToken : Instr → Option Nat
  | .rlitK0 s => some s.toNat
  | .rlitK1 s => some (8 + s.toNat)
  | .rlitK2 s => some (24 + s.toNat)
  | .rlitK3 s => some (56 + s.toNat)
  | .rlitK4 s => some (120 + s.toNat)
  | .rlitK5 s => some (248 + s.toNat)
  | _ => none

/-- The byte a raw literal token stands for (30_encoding.md R76). -/
def rawByteOf : Instr → Option Byte
  | .lit8 b => some b
  | .litFF => some 0xFF
  | _ => none

/-- A stream token: what the decompress direction dispatches on, and no operation of the host. -/
def isToken (i : Instr) : Prop := ∀ op, encode i ≠ .host op

/-- DEC_LITERAL on the byte c (44_stream_controller.md R189), apart from the rank table. -/
def afterLiteral (c : Byte) (s : State) : State :=
  { s with outq := s.outq ++ [c], cb := Memory.write s.cb s.ctx.toNat c, ctx := nextCtx s.ctx c, phase := .dFlag }

/-- The flag token of a pending run (41_run_coder.md R121, 30_encoding.md R73): k is the class of the run. -/
def flagOfRun (k run : Nat) : List Bool := if run = 0 then [false] else true :: vlcCode k (run - 1) 0

/-- The predictor and the rank table of two states are the same. -/
def sameTables (e d : State) : Prop := d.cb = e.cb ∧ d.ctx = e.ctx ∧ d.rank = e.rank ∧ d.amode = e.amode

/-- A state without CTRL.MODE and the word the last register read returned. -/
def blind (s : State) : State := { s with ctrlMode := 0, csrRdata := 0 }

/-- A state without the values no observation reaches (70_reset_and_hazards.md R341): outside a stream the datapath; in
a stream `cur` while none of its bits is unread (10_state.md R32) and, on compress, `hidx` (R30). -/
def unseen (s : State) : State :=
  if s.st = .busy then
    { s with cur := if s.nleft = 0 then 0 else s.cur, hidx := if s.adir = 0 then 0 else s.hidx }
  else
    { s with cb := [], ctx := 0, run := 0, rank := RankTable.initial, rem := 0, hidx := 0, acc := 0, nacc := 0
             cur := 0, nleft := 0 }

/-- The host operation that starts a compress stream in mode m. -/
def startC (m : AMode) : HostOp := .write 0x00 (ctrlWord 1 0 m.code)

/-- The host operation that starts a decompress stream, with any MODE in its word. -/
def startD (mode : BitVec 2) : HostOp := .write 0x00 (ctrlWord 1 1 mode)

/-- SEND of the bytes, then IN END (30_encoding.md R83). -/
def send (bytes : List Byte) : List HostOp := bytes.map (fun b => .beat (0#1 ++ b)) ++ [.beat (1#1 ++ 0#8)]

/-- The host starts a stream, sends the bytes and END, and leaves every choice of who moves to the block. -/
def fed (start : HostOp) (bytes : List Byte) (s : State) : State :=
  { s with host := start :: send bytes, turns := [] }

/-- The host operation that takes effect next, when it is the host's move. -/
def hostMoves (s : State) (p : Instr → Prop) : Prop :=
  s.nextAgent = .host ∧ ∃ op rest i, s.host = op :: rest ∧ decodeHost op = some i ∧ p i

/-- A CTRL write with START = 1 (30_encoding.md R80). -/
def isStart (i : Instr) : Prop :=
  i = .startCRaw ∨ i = .startCRank ∨ i = .startCBad0 ∨ i = .startCBad3 ∨ ∃ m, i = .startD m

/-- The reset input takes effect next. -/
def resetMoves (s : State) : Prop := s.nextAgent = .host ∧ ∃ rest, s.host = .rst :: rest

/-- A row of the transition table of 44_stream_controller.md R192, with its trigger, its new phase and its new STATE. -/
def phaseRow (s t : State) : Prop :=
  (resetMoves s ∧ t.phase = .halt ∧ t.st = .idle)
  ∨ (s.phase ≠ .halt ∧ t.phase = .halt ∧ t.st = .error)
  ∨ match s.phase with
    | .halt =>
      (hostMoves s (fun i => i = .startCRaw ∨ i = .startCRank) ∧ t.phase = .cBody ∧ t.st = .busy)
      ∨ (hostMoves s (fun i => i = .startCBad0 ∨ i = .startCBad3) ∧ t.phase = .halt ∧ t.st = .error)
      ∨ (hostMoves s (fun i => ∃ m, i = .startD m) ∧ t.phase = .dHdr ∧ t.hidx = 0 ∧ t.st = .busy)
    | .cBody => hostMoves s (fun i => ∃ x, i = .inEnd x) ∧ t.phase = .cFinish ∧ t.st = .busy
    | .cFinish => s.nextAgent = .block ∧ s.outq = [] ∧ t.phase = .halt ∧ t.st = .done
    | .dHdr => s.nextAgent = .block ∧ s.hidx = 3 ∧ t.phase = .dFlag ∧ t.st = .busy
    | .dFlag => s.nextAgent = .block ∧ (t.phase = .dReplay ∨ t.phase = .dLit) ∧ t.st = .busy
    | .dReplay => s.nextAgent = .block ∧ s.rem = 1 ∧ t.phase = .dLit ∧ t.st = .busy
    | .dLit => s.nextAgent = .block ∧ (t.phase = .dFlag ∨ t.phase = .dTail) ∧ t.st = .busy
    | .dTail => hostMoves s (fun i => ∃ x, i = .inEnd x) ∧ t.phase = .dFinish ∧ t.st = .busy
    | .dFinish => s.nextAgent = .block ∧ s.outq = [] ∧ t.phase = .halt ∧ t.st = .done

end Sys2Proof.Claims

open Sys2Proof Sys2Proof.Machine Sys2Proof.Claims

/-! ### Reset -/

/-- 70_reset_and_hazards.md R340: the values reset gives. -/
def Obligations.ResetStateHasTheSpecValues : Prop :=
  let s := State.reset
  s.st = .idle ∧ s.err = .none ∧ s.amode = .none ∧ s.adir = 0 ∧ s.ctrlDir = 0 ∧ s.ctrlMode = 0 ∧
  s.inCount = 0 ∧ s.outCount = 0 ∧ s.outq = [] ∧ s.phase = .halt ∧ s.inReady = false ∧ s.outValid = false

/-- 70_reset_and_hazards.md R340: the reset input has those values from every state in which it takes effect, a stream's
middle among them; bytes not taken are lost, and what the host has still to offer stays with it. -/
def Obligations.ResetInputAbandonsTheStream : Prop :=
  ∀ s rest, s.nextAgent = .host → s.host = .rst :: rest →
    ∃ t, step s = .next t ∧
      t.st = .idle ∧ t.err = .none ∧ t.amode = .none ∧ t.adir = 0 ∧ t.ctrlDir = 0 ∧ t.ctrlMode = 0 ∧
      t.inCount = 0 ∧ t.outCount = 0 ∧ t.outq = [] ∧ t.phase = .halt ∧ t.inReady = false ∧ t.outValid = false ∧
      t.host = rest

/-- The invariant holds after reset, with the reset values of log 1 (the model's choice). -/
def Obligations.InvariantHoldsAtReset : Prop := State.reset.Inv

/-! ### Writes to CTRL -/

/-- 45_host_interface.md R225: every write to CTRL is ignored while BUSY. -/
def Obligations.CtrlWriteWhileBusyIsIgnored : Prop :=
  ∀ s : State, s.st = .busy →
    (∀ d m, exec (.cfg d m) s = .next s) ∧ exec .startCRaw s = .next s ∧ exec .startCRank s = .next s ∧
    exec .startCBad0 s = .next s ∧ exec .startCBad3 s = .next s ∧ ∀ m, exec (.startD m) s = .next s

/-- 45_host_interface.md R225: CFG stores DIR and MODE, every value of them, and starts nothing. -/
def Obligations.CfgStoresDirAndMode : Prop :=
  ∀ (d : BitVec 1) (m : BitVec 2) (s : State), s.st ≠ .busy →
    exec (.cfg d m) s = .next { s with ctrlDir := d, ctrlMode := m }

/-- 44_stream_controller.md R180 for MODE 1 and 2, with R181, R165: the whole state after the START (that
`cur` and `hidx` keep their values is the model's choice, log 20; a paused operation is over, log 8). -/
def Obligations.StartCompressBeginsAStream : Prop :=
  ∀ s : State, s.st ≠ .busy →
    exec .startCRaw s = .next (compressing 1 .raw s) ∧ exec .startCRank s = .next (compressing 2 .rank s)

/-- 60_exceptions.md R301 with 44_stream_controller.md R180: MODE 0 and 3 raise USAGE, and the counts and AMODE read 0;
decompress has no usage error. -/
def Obligations.StartWithBadModeRaisesUsage : Prop :=
  ∀ s : State, s.st ≠ .busy →
    (∀ (i : Instr) (m : BitVec 2), (i = .startCBad0 ∧ m = 0) ∨ (i = .startCBad3 ∧ m = 3) →
      exec i s = .next (failed .usage
        { s with ctrlDir := 0, ctrlMode := m, inCount := 0, outCount := 0, adir := 0, amode := .none, outq := [] })) ∧
    ∀ m, ∃ t, exec (.startD m) s = .next t ∧ t.err = .none

/-- 44_stream_controller.md R185: the whole state after START_D, whatever MODE is (that `cur` keeps its value is the model's
choice, log 20; a paused operation is over, log 8). -/
def Obligations.StartDecompressBeginsAStream : Prop :=
  ∀ (m : BitVec 2) (s : State), s.st ≠ .busy → exec (.startD m) s = .next (decompressing m s)

/-- 30_encoding.md R80: the command a word written to CTRL is depends on bits 3:0 only, as the table has it. -/
def Obligations.CtrlWordDependsOnLowFourBits : Prop :=
  ∀ (addr : BitVec 8) (w : Word), addr.toNat < 4 →
    (w.toNat % 16 = 5 → decode (.host (.write addr w)) = .ok .startCRaw) ∧
    (w.toNat % 16 = 9 → decode (.host (.write addr w)) = .ok .startCRank) ∧
    (w.toNat % 16 = 1 → decode (.host (.write addr w)) = .ok .startCBad0) ∧
    (w.toNat % 16 = 13 → decode (.host (.write addr w)) = .ok .startCBad3) ∧
    (w.toNat % 4 = 3 → decode (.host (.write addr w)) = .ok (.startD (BitVec.ofNat 2 (w.toNat / 4)))) ∧
    (w.toNat % 2 = 0 →
      decode (.host (.write addr w)) = .ok (.cfg (BitVec.ofNat 1 (w.toNat / 2)) (BitVec.ofNat 2 (w.toNat / 4))))

/-! ### Register reads and other writes -/

/-- 45_host_interface.md R224, with the fields of 10_state.md R36 and R37 as numbers: a read puts the register's value
on csr_rdata and does nothing else. -/
def Obligations.RegisterReadsReturnTheFields : Prop :=
  ∀ s : State,
    (∃ v : Word, v.toNat = s.ctrlDir.toNat * 2 + s.ctrlMode.toNat * 4 ∧
      exec .rdCtrl s = .next { s with csrRdata := v }) ∧
    (∃ v : Word, v.toNat = s.st.code.toNat + s.err.code.toNat * 16 + s.amode.code.toNat * 256 + s.adir.toNat * 1024 ∧
      exec .rdStatus s = .next { s with csrRdata := v }) ∧
    exec .rdInCount s = .next { s with csrRdata := s.inCount } ∧
    exec .rdOutCount s = .next { s with csrRdata := s.outCount } ∧
    (∀ addr, exec (.rdUnmapped addr) s = .next { s with csrRdata := 0 }) ∧
    ∀ addr : BitVec 8, decode (.host (.read addr)) = .ok (
      if addr.toNat / 4 = 0 then .rdCtrl else if addr.toNat / 4 = 1 then .rdStatus
      else if addr.toNat / 4 = 2 then .rdInCount else if addr.toNat / 4 = 3 then .rdOutCount
      else .rdUnmapped addr)

/-- 45_host_interface.md R226: a write to any other address has no effect, in every state. -/
def Obligations.WriteToOtherAddressHasNoEffect : Prop :=
  ∀ (s : State) (v : Word),
    exec (.wrStatus v) s = .next s ∧ exec (.wrInCount v) s = .next s ∧ exec (.wrOutCount v) s = .next s ∧
    (∀ addr, exec (.wrUnmapped addr v) s = .next s) ∧
    ∀ addr : BitVec 8, 4 ≤ addr.toNat → ∃ i, decode (.host (.write addr v)) = .ok i ∧ exec i s = .next s

/-- 20_memory.md R57, R63: csr_addr[1:0] is ignored, and csr_addr[7:2] picks the register; a write to CTRL is its command
word's. -/
def Obligations.RegisterAddressMap : Prop :=
  ∀ (addr : BitVec 8) (w : Word),
    (addr.toNat / 4 = 0 → decodeRead addr = .rdCtrl ∧ decodeWrite addr w = decodeCtrl w) ∧
    (addr.toNat / 4 = 1 → decodeRead addr = .rdStatus ∧ decodeWrite addr w = .wrStatus w) ∧
    (addr.toNat / 4 = 2 → decodeRead addr = .rdInCount ∧ decodeWrite addr w = .wrInCount w) ∧
    (addr.toNat / 4 = 3 → decodeRead addr = .rdOutCount ∧ decodeWrite addr w = .wrOutCount w) ∧
    (4 ≤ addr.toNat / 4 → decodeRead addr = .rdUnmapped addr ∧ decodeWrite addr w = .wrUnmapped addr w)

/-- 30_encoding.md R80 to R82: every host operation but the reset input is a well-formed operation of the table. -/
def Obligations.EveryHostOperationDecodes : Prop :=
  ∀ op : HostOp, op ≠ .rst → ∃ i, decode (.host op) = .ok i ∧ i.wellFormed = true

/-! ### Beats -/

/-- 45_host_interface.md R223: the block offers the head of the queue, and the host takes it; while there is none, nothing
is offered and the host waits (30_encoding.md R82; that it waits by keeping the operation is the model's form, log 7, and
that the byte taken is kept in `taken` is log 15). -/
def Obligations.OutTakesTheHead : Prop :=
  ∀ s : State,
    (s.outValid = true ↔ s.outq ≠ []) ∧
    (∀ b q, s.outq = b :: q → s.outData = some b ∧
      exec .out s = .next { s with outq := q, outCount := s.outCount + 1, taken := b }) ∧
    (s.outq = [] → s.outData = none ∧ exec .out s = .next { s with host := .take :: s.host })

/-- 45_host_interface.md R222: where the block accepts no beat (IDLE, DONE, ERROR, and the phases that need none), an
offered beat stays offered and nothing else changes (log 7). -/
def Obligations.BeatIsHeldUntilAccepted : Prop :=
  ∀ s : State,
    (s.st ≠ .busy ∨ s.phase = .cFinish ∨ s.phase = .dReplay ∨ s.phase = .dFinish ∨ s.phase = .halt ∨
      ((s.phase = .dFlag ∨ s.phase = .dLit) ∧ s.nleft ≠ 0) ∨ (s.phase = .dHdr ∧ s.hdrByte ≠ none)) →
    (∀ d, exec (.inData d) s = .next { s with host := .beat (0#1 ++ d) :: s.host }) ∧
    ∀ x, exec (.inEnd x) s = .next { s with host := .beat (1#1 ++ x) :: s.host }

/-- 48_bitio_vlc.md R254, R255: a data beat that feeds a wait is counted and handed to the header check or to the bit
reader. -/
def Obligations.DataBeatFeedsTheWait : Prop :=
  ∀ (d : Byte) (s : State),
    (s.At .dHdr → s.hdrByte = none →
      exec (.inData d) s = .next { s with inCount := s.inCount + 1, hdrByte := some d }) ∧
    (s.At .dFlag ∨ s.At .dLit → s.nleft = 0 →
      exec (.inData d) s = .next { s with inCount := s.inCount + 1, cur := d, nleft := 8 })

/-- 60_exceptions.md R304: END while the decoder needs a byte raises UNEXPECTED_END, whatever in_data is, and is not
counted. -/
def Obligations.EndBeatInAWaitRaisesUnexpectedEnd : Prop :=
  ∀ (x : Byte) (s : State),
    (s.At .dHdr ∧ s.hdrByte = none) ∨ ((s.At .dFlag ∨ s.At .dLit) ∧ s.nleft = 0) →
    exec (.inEnd x) s = .next (failed .unexpectedEnd s)

/-- 44_stream_controller.md R190: in D_TAIL a data beat is counted and discarded, and END leads to D_FINISH. -/
def Obligations.TailBeatsAreDiscarded : Prop :=
  ∀ s : State, s.At .dTail →
    (∀ d, exec (.inData d) s = .next { s with inCount := s.inCount + 1 }) ∧
    ∀ x, exec (.inEnd x) s = .next { s with phase := .dFinish }

/-! ### Compress -/

/-- 44_stream_controller.md R182 on a match: the beat is counted, `run` grows, the rank table is updated in rank mode
only, ctx advances, nothing is emitted. -/
def Obligations.MatchedByteAccumulates : Prop :=
  ∀ (c : Byte) (s : State), s.At .cBody → Memory.read s.cb s.ctx.toNat = c → s.run.toNat ≠ 2 ^ 32 - 1 →
    ¬(s.amode = .rank ∧ (s.rank.freqOf c).toNat = 2 ^ 32 - 1) →
    exec (.inData c) s = .next { s with
      inCount := s.inCount + 1, run := s.run + 1, ctx := nextCtx s.ctx c
      rank := if s.amode = .rank then s.rank.onMatchedByte c else s.rank }

/-- 60_exceptions.md R307, R308, R310: the overflow checks of ENC_BYTE, RUN_COUNTER_OVERFLOW first, and before any effect
but the count. -/
def Obligations.EncoderOverflowsArePrecise : Prop :=
  ∀ (c : Byte) (s : State), s.At .cBody →
    (Memory.read s.cb s.ctx.toNat = c → s.run.toNat = 2 ^ 32 - 1 →
      exec (.inData c) s = .next (failed .runCounterOverflow { s with inCount := s.inCount + 1 })) ∧
    ((Memory.read s.cb s.ctx.toNat = c → s.run.toNat ≠ 2 ^ 32 - 1) → s.amode = .rank →
      (s.rank.freqOf c).toNat = 2 ^ 32 - 1 →
      exec (.inData c) s = .next (failed .freqOverflow { s with inCount := s.inCount + 1 }))

/-- 44_stream_controller.md R182 on a miss, with 41_run_coder.md R121, 42_literal_coder.md R140, R143 and 30_encoding.md
R73 to R77: the flag token of the pending run and the literal's token are appended to the bitstream, in that order; the
predicted slot takes the byte; ctx advances; `run` is 0; nothing else changes but the bit writer and the queue. -/
def Obligations.MissedByteEmitsItsRecord : Prop :=
  ∀ (c : Byte) (s : State) (k j : Nat), s.At .cBody → Memory.read s.cb s.ctx.toNat ≠ c →
    ¬(s.amode = .rank ∧ (s.rank.freqOf c).toNat = 2 ^ 32 - 1) →
    (s.run ≠ 0 → inClass k (s.run.toNat - 1) 0) → inClass j (s.rank.order.idxOf c) 3 →
    ∃ t, exec (.inData c) s = .next t ∧
      written t = written s ++ flagOfRun k s.run.toNat ++
        (if s.amode = .raw then byteBits c ++ (if c = 0xFF then [false] else [])
         else vlcCode j (s.rank.order.idxOf c) 3) ∧
      t = { s with
        inCount := s.inCount + 1, run := 0, cb := Memory.write s.cb s.ctx.toNat c, ctx := nextCtx s.ctx c
        rank := if s.amode = .raw then s.rank else s.rank.onLiteralByte c
        acc := t.acc, nacc := t.nacc, outq := t.outq }

/-- 44_stream_controller.md R183 with 41_run_coder.md R121, 42_literal_coder.md R141, R144 and 48_bitio_vlc.md R253: the
flag token, the end marker and 0 to 7 zero bits, up to a whole byte. -/
def Obligations.EndOfInputClosesTheStream : Prop :=
  ∀ (x : Byte) (s : State) (k : Nat), s.At .cBody → (s.run ≠ 0 → inClass k (s.run.toNat - 1) 0) →
    ∃ t n, exec (.inEnd x) s = .next t ∧ n < 8 ∧ t.nacc = 0 ∧
      written t = written s ++ flagOfRun k s.run.toNat ++
        (if s.amode = .raw then List.replicate 9 true
         else [true, true, true, true, true, false, false, false, false, false, true, false, false, false]) ++
        List.replicate n false ∧
      t = { s with run := 0, phase := .cFinish, acc := t.acc, nacc := t.nacc, outq := t.outq }

/-- 44_stream_controller.md R195: the empty input compresses to the header and two bytes. -/
def Obligations.EmptyInputIsMinimal : Prop :=
  ∀ (x : Byte) (s : State),
    (∃ t, exec (.inEnd x) (compressing 1 .raw s) = .next t ∧ t.outq = header 1 ++ [0x7F, 0xC0]) ∧
    (∃ t, exec (.inEnd x) (compressing 2 .rank s) = .next t ∧ t.outq = header 2 ++ [0x7C, 0x10])

/-! ### Decompress tokens -/

/-- 44_stream_controller.md R186, with 60_exceptions.md R302, R303: each header byte is checked as it stands; the fourth
gives AMODE. -/
def Obligations.HeaderBytesAreChecked : Prop :=
  ∀ s : State, s.At .dHdr →
    (∀ (k : Fin 3) (b : Byte), s.hidx.toNat = k.val →
      (b = Config.magic k → exec (.hdrMagic b) s = .next { s with hidx := s.hidx + 1 }) ∧
      (b ≠ Config.magic k → exec (.hdrMagic b) s = .next (failed .format s))) ∧
    (s.hidx = 3 →
      exec .hdrModeRaw s = .next { s with amode := .raw, phase := .dFlag } ∧
      exec .hdrModeRank s = .next { s with amode := .rank, phase := .dFlag } ∧
      ∀ b, exec (.hdrModeBad b) s = .next (failed .format s))

/-- 41_run_coder.md R122, 30_encoding.md R73: F0 leads to the literal; every F1 of length L, 1 to 2^32 - 1, to a replay
of L bytes. -/
def Obligations.FlagTokensSetTheReplay : Prop :=
  ∀ s : State, s.At .dFlag →
    exec .f0 s = .next { s with phase := .dLit } ∧
    ∀ i L, runOf i = some L → 1 ≤ L ∧ L < 2 ^ 32 ∧
      ∃ r : RunWord, r.toNat = L ∧ exec i s = .next { s with rem := r, phase := .dReplay }

/-- 60_exceptions.md R305, R306: the tokens of codes past their limit raise their error. -/
def Obligations.CodesPastTheLimitRaise : Prop :=
  ∀ s : State,
    (s.At .dFlag → exec .runOvf s = .next (failed .runLengthOverflow s)) ∧
    (s.At .dLit → s.amode ≠ .raw →
      exec .badRankPrefix s = .next (failed .badRank s) ∧ ∀ v, exec (.badRankK5 v) s = .next (failed .badRank s))

/-- 44_stream_controller.md R189 in raw mode, with 42_literal_coder.md R142: the literal is emitted, becomes the
prediction at the context, and ctx advances; the rank table is untouched. -/
def Obligations.RawLiteralsAreEmitted : Prop :=
  ∀ (i : Instr) (c : Byte) (s : State), rawByteOf i = some c → s.At .dLit → s.amode = .raw →
    exec i s = .next (afterLiteral c s)

/-- 42_literal_coder.md R145 with 44_stream_controller.md R189: a rank literal is the symbol at its rank; its counter at
the limit raises FREQ_OVERFLOW before any effect (60_exceptions.md R308). -/
def Obligations.RankLiteralsAreEmitted : Prop :=
  ∀ (i : Instr) (n : Nat) (c : Byte) (s : State), rankOfToken i = some n → s.At .dLit → s.amode ≠ .raw →
    s.rank.order[n]? = some c →
    ((s.rank.freqOf c).toNat ≠ 2 ^ 32 - 1 →
      exec i s = .next (afterLiteral c { s with rank := s.rank.onLiteralByte c })) ∧
    ((s.rank.freqOf c).toNat = 2 ^ 32 - 1 → exec i s = .next (failed .freqOverflow s))

/-- 44_stream_controller.md R189: the end marker discards the rest of its byte, changes no table and leads to D_TAIL; PAD
stands for those bits (log 12). -/
def Obligations.EndMarkersLeadToTheTail : Prop :=
  ∀ s : State,
    (s.At .dLit → s.amode = .raw → exec .eosRaw s = .next { s with nleft := 0, phase := .dTail }) ∧
    (s.At .dLit → s.amode ≠ .raw → exec .eosRank s = .next { s with nleft := 0, phase := .dTail }) ∧
    (s.At .dTail → ∀ n, exec (.pad n) s = .next { s with nleft := 0 })

/-- 60_exceptions.md R312, R318: while STATE is not BUSY no token has any effect. -/
def Obligations.NoTokenRunsUnlessBusy : Prop :=
  ∀ (i : Instr) (s : State), isToken i → s.st ≠ .busy → exec i s = .next s

/-! ### The block's own steps -/

/-- 41_run_coder.md R123: one replayed byte (whose move it is, and the turn that is used up, are the model's form, log 6). -/
def Obligations.ReplayEmitsThePrediction : Prop :=
  ∀ (s : State) (c : Byte), s.At .dReplay → s.nextAgent = .block → Memory.read s.cb s.ctx.toNat = c →
    (¬(s.amode = .rank ∧ (s.rank.freqOf c).toNat = 2 ^ 32 - 1) →
      step s = .next { s.useTurn with
        outq := s.outq ++ [c], ctx := nextCtx s.ctx c, rem := s.rem - 1
        rank := if s.amode = .rank then s.rank.onMatchedByte c else s.rank
        phase := if s.rem = 1 then .dLit else .dReplay }) ∧
    (s.amode = .rank → (s.rank.freqOf c).toNat = 2 ^ 32 - 1 → step s = .next (failed .freqOverflow s.useTurn))

/-- 44_stream_controller.md R191: a stream is DONE once the queue is empty, and not before, whatever the host does (whose
move it is, and the turn that is used up, are the model's form, log 6). -/
def Obligations.CompleteWaitsForTheQueue : Prop :=
  ∀ s : State, s.At .cFinish ∨ s.At .dFinish →
    (s.outq = [] → s.nextAgent = .block → step s = .next { s.useTurn with st := .done, phase := .halt }) ∧
    (s.outq ≠ [] → ∀ t, step s = .next t → t.st ≠ .done) ∧
    (s.outq ≠ [] → s.host = [] → step s = .next s)

/-- A step runs the token its bits decode to, with those bits taken off the input; while they are no whole token, it reads
what there is and waits (00_scope.md R7, 48_bitio_vlc.md R255). -/
def Obligations.StepRunsTheDecodedToken : Prop :=
  ∀ s : State, s.At .dFlag ∨ s.At .dLit → s.nleft ≠ 0 → s.nextAgent = .block →
    (∀ i rest, s.decodeToken (s.tok ++ s.unread) = .got i rest →
      step s = exec i { s.useTurn with tok := [], nleft := Fin.ofNat 9 rest.length }) ∧
    (s.decodeToken (s.tok ++ s.unread) = .wait →
      step s = .next { s.useTurn with tok := s.tok ++ s.unread, nleft := 0 })

/-- A step runs the host's next operation, taken off its list, when it is the host's move. -/
def Obligations.StepRunsTheHostOperation : Prop :=
  ∀ (s : State) (op : HostOp) (rest : List HostOp) (i : Instr),
    s.nextAgent = .host → s.host = op :: rest → decode (.host op) = .ok i →
    step s = exec i { s.useTurn with host := rest }

/-- A step runs the header byte that was handed over. -/
def Obligations.StepRunsTheHeaderByte : Prop :=
  ∀ (s : State) (b : Byte), s.At .dHdr → s.hdrByte = some b →
    step s = exec (decodeHeader s.hidx b) { s with hdrByte := none }

/-- 00_scope.md R8: no operation of the host comes between a beat that ends a wait and the rest of the step that waited. -/
def Obligations.NoHostMoveInsideAStep : Prop :=
  ∀ (d : Byte) (s t : State), (s.At .dHdr ∧ s.hdrByte = none) ∨ ((s.At .dFlag ∨ s.At .dLit) ∧ s.nleft = 0) →
    exec (.inData d) s = .next t → t.nextAgent = .block ∧ t.blockEnabled = true

/-! ### Components -/

/-- 40_context_predictor.md R102: ADVANCE is a shift and an addition modulo 2^20; and R103: after four bytes the context
depends on those four only. -/
def Obligations.AdvanceIsShiftAndAdd : Prop :=
  (∀ (x : Ctx) (c : Byte), (nextCtx x c).toNat = (x.toNat * 2 ^ 5 + c.toNat) % 2 ^ 20) ∧
  ∀ (x : Ctx) (c1 c2 c3 c4 : Byte),
    (nextCtx (nextCtx (nextCtx (nextCtx x c1) c2) c3) c4).toNat =
      (c4.toNat + 32 * c3.toNat + 1024 * c2.toNat + 32768 * c1.toNat) % 2 ^ 20

/-- 40_context_predictor.md R100, R101, R104, 70_reset_and_hazards.md R345: a prediction is the byte of the last UPDATE at
the same context, and 0 where there was none since START. -/
def Obligations.PredictionIsTheLastUpdate : Prop :=
  ∀ (s : State) (updates : List (Ctx × Byte)),
    let cb := updates.foldl (fun m u => Memory.write m u.1.toNat u.2) []
    ∀ x : Ctx, ({ s with cb := cb, ctx := x } : State).predict =
      ((updates.reverse.find? (fun u => u.1 == x)).map (·.2)).getD 0

/-- 43_rank_tracker.md R160: c comes first, the entries before its place move up one, the others stay, and the list stays
a permutation; R161: RankOf is the place. -/
def Obligations.MoveToFrontMovesOneEntry : Prop :=
  ∀ (t : RankTable) (c : Byte), t.Perm →
    ∃ p, p < 256 ∧ t.rankOf c = p ∧ t.order[p]? = some c ∧ (t.moveToFront c).Perm ∧
      (t.moveToFront c).order[0]? = some c ∧
      (∀ i, 1 ≤ i → i ≤ p → (t.moveToFront c).order[i]? = t.order[i - 1]?) ∧
      (∀ i, p < i → (t.moveToFront c).order[i]? = t.order[i]?) ∧
      (t.moveToFront c).freq = t.freq ∧ (t.moveToFront c).anchor = t.anchor

/-- 43_rank_tracker.md R166: the anchor is the front at START and after both operations, which then have the two simple
effects. -/
def Obligations.AnchorIsAlwaysTheFront : Prop :=
  RankTable.initial.Perm ∧ RankTable.initial.anchor = RankTable.initial.front ∧
  ∀ (t : RankTable) (c : Byte), t.Perm → t.anchor = t.front →
    (t.onMatchedByte c).Perm ∧ (t.onMatchedByte c).anchor = (t.onMatchedByte c).front ∧
    (t.onLiteralByte c).Perm ∧ (t.onLiteralByte c).anchor = (t.onLiteralByte c).front ∧
    t.onMatchedByte c =
      (if ((t.bump c).freqOf t.front).toNat ≤ ((t.bump c).freqOf c).toNat
       then { (t.bump c).moveToFront c with anchor := c } else t.bump c) ∧
    t.onLiteralByte c = { (t.moveToFront c).bump c with anchor := c }

/-- 10_state.md R25, R35 item 3: each rank operation adds 1 to the counter of its symbol, below the limit, and leaves
every other counter. -/
def Obligations.FrequencyGrowsByOne : Prop :=
  ∀ (t : RankTable) (c x : Byte), (t.freqOf c).toNat ≠ 2 ^ 32 - 1 →
    ((t.onMatchedByte c).freqOf x).toNat = (t.freqOf x).toNat + (if x = c then 1 else 0) ∧
    ((t.onLiteralByte c).freqOf x).toNat = (t.freqOf x).toNat + (if x = c then 1 else 0)

/-- 30_encoding.md R74: the loop of PutVLC (48_bitio_vlc.md R252) gives the closed form, every n has exactly one class,
and the code has 2k + 1 + B bits. -/
def Obligations.VlcLoopIsTheClosedForm : Prop :=
  ∀ n B : Nat, (∃! k, inClass k n B) ∧
    ∀ k, inClass k n B → vlcBits n B = vlcCode k n B ∧ (vlcBits n B).length = 2 * k + 1 + B

/-- 48_bitio_vlc.md R259: reading inverts writing and reads exactly those bits, for every run code the encoder writes and
every rank code up to the end marker; no code is the beginning of another; and a longer code never goes with a smaller
value. -/
def Obligations.VlcIsInvertible : Prop :=
  (∀ n rest, n < 2 ^ 32 - 1 → ∃ k, getVLC .runLen 0 0 (vlcBits n 0 ++ rest) = .got (n, k) rest) ∧
  (∀ n rest, n ≤ 256 → ∃ k, getVLC .rank 0 3 (vlcBits n 3 ++ rest) = .got (n, k) rest) ∧
  (∀ B m n rest, vlcBits m B = vlcBits n B ++ rest → m = n ∧ rest = []) ∧
  (∀ B m n, m < n → (vlcBits m B).length ≤ (vlcBits n B).length)

/-- 48_bitio_vlc.md R257, 30_encoding.md R78: the limit checks, on the 32nd one-bit of a run code and on the sixth of a
rank code, before anything more is read; and one one-bit fewer is no error. -/
def Obligations.VlcLimitsAreOnTheExactBit : Prop :=
  (∀ rest, getVLC .runLen 0 0 (List.replicate 32 true ++ rest) = .bad rest) ∧
  (∀ rest, getVLC .rank 0 3 (List.replicate 6 true ++ rest) = .bad rest) ∧
  (∀ n, n ≤ 31 → getVLC .runLen 0 0 (List.replicate n true) = .wait) ∧
  (∀ n, n ≤ 5 → getVLC .rank 0 3 (List.replicate n true) = .wait)

/-- 48_bitio_vlc.md R250, 20_memory.md R54: PutBit appends its bit to what is written, and nothing but the bit writer and
the queue changes; bytes already queued stay. -/
def Obligations.PutBitAppendsOneBit : Prop :=
  ∀ (b : Bool) (s : State),
    written (s.putBit b) = written s ++ [b] ∧ (∃ q, (s.putBit b).outq = s.outq ++ q) ∧
    s.putBit b = { s with acc := (s.putBit b).acc, nacc := (s.putBit b).nacc, outq := (s.putBit b).outq }

/-! ### Encodings -/

/-- Every well-formed operation and token decodes back from its code, with every operand. -/
def Obligations.DecodeInvertsEncode : Prop :=
  ∀ i : Instr, i.wellFormed = true → decode (encode i) = .ok i

/-- 30_encoding.md R79: tokens are self-delimiting: whatever bits follow, the decoder of the place reads the token and
exactly its bits. -/
def Obligations.TokensAreSelfDelimiting : Prop :=
  ∀ (i : Instr) (bits rest : List Bool), i.wellFormed = true →
    (encode i = .flag bits → decodeFlag (bits ++ rest) = .got i rest) ∧
    (encode i = .raw bits → decodeRaw (bits ++ rest) = .got i rest) ∧
    (encode i = .rank bits → decodeRank (bits ++ rest) = .got i rest)

/-- 30_encoding.md R78, R79: what a token decoder reads is the code of the well-formed token it gives, followed by the
bits it leaves: no bit string has two readings. -/
def Obligations.TokenDecodersReadTheirCode : Prop :=
  ∀ (bs rest : List Bool) (i : Instr),
    (decodeFlag bs = .got i rest → i.wellFormed = true ∧ ∃ bits, encode i = .flag bits ∧ bs = bits ++ rest) ∧
    (decodeRaw bs = .got i rest → i.wellFormed = true ∧ ∃ bits, encode i = .raw bits ∧ bs = bits ++ rest) ∧
    (decodeRank bs = .got i rest → i.wellFormed = true ∧ ∃ bits, encode i = .rank bits ∧ bs = bits ++ rest)

/-- Words written out from the tables of 30_encoding.md (R71, R73, R76, R77, R80, R81) decode to what they stand for. -/
def Obligations.SampleWordsDecode : Prop :=
  decode (.host (.write 0x00 0x00000005)) = .ok .startCRaw ∧
  decode (.host (.write 0x00 0x0000000D)) = .ok .startCBad3 ∧
  decode (.host (.read 0x05)) = .ok .rdStatus ∧
  decode (.host (.beat 0b001000001)) = .ok (.inData 0x41) ∧
  decode (.headerMode 0x02) = .ok .hdrModeRank ∧
  decode (.flag [true, true, true, false, false, true]) = .ok (.f1K2 1) ∧
  decode (.raw [true, true, true, true, true, true, true, true, false]) = .ok .litFF ∧
  decode (.rank [true, true, true, false, false, false, true, false, false, true]) = .ok (.rlitK3 9)

/-! ### The whole machine -/

/-- No step stops. This is the model's reading (log 18) of a block without traps (60_exceptions.md): its errors are next
states, and a token out of its place, like an operation that waits, answers a next state too (log 9, log 7). -/
def Obligations.EveryStepAnswersNext : Prop :=
  (∀ (i : Instr) (s : State), ∃ t, exec i s = .next t) ∧ ∀ s : State, ∃ t, step s = .next t

/-- Every step keeps the invariant (10_state.md R35, with R27, R30, R37 and 43_rank_tracker.md R166). -/
def Obligations.EveryStepKeepsTheInvariant : Prop :=
  ∀ s t : State, s.Inv → step s = .next t → t.Inv

/-- 44_stream_controller.md R192: a step that changes the phase, or STATE, follows a row of the transition table. -/
def Obligations.PhaseChangesFollowTheTable : Prop :=
  ∀ s t : State, s.Inv → step s = .next t → t.phase ≠ s.phase ∨ t.st ≠ s.st → phaseRow s t

/-- 10_state.md R37: STATE leaves BUSY only by COMPLETE, by an error, or by reset; it leaves DONE and ERROR only by a
START or by reset. -/
def Obligations.StateChangesOnlyAsStated : Prop :=
  ∀ s t : State, s.Inv → step s = .next t →
    (s.st = .busy → t.st = .busy ∨
      (t.st = .done ∧ (s.phase = .cFinish ∨ s.phase = .dFinish) ∧ s.outq = []) ∨
      (t.st = .error ∧ t.err ≠ .none) ∨ resetMoves s) ∧
    (s.st = .done ∨ s.st = .error → t.st = s.st ∨ resetMoves s ∨
      hostMoves s isStart)

/-- 10_state.md R27, R28: AMODE, once set, and ADIR stay as they are while a stream goes on. -/
def Obligations.ModeAndDirectionAreFixedForTheStream : Prop :=
  ∀ s t : State, step s = .next t → s.st = .busy → t.st = .busy →
    t.adir = s.adir ∧ (s.Inv → s.amode ≠ .none → t.amode = s.amode)

/-- 44_stream_controller.md R197, 42_literal_coder.md R146: CTRL.MODE reaches nothing but itself and what a read of
CTRL returned: two states that differ only in CTRL.MODE and the last word read take steps to two such states, and where
the last words read agree they still do, unless the step is a read of CTRL. -/
def Obligations.CtrlModeDoesNotReachTheStream : Prop :=
  ∀ s u s' : State, blind s = blind u → step s = .next s' →
    ∃ u', step u = .next u' ∧ blind s' = blind u' ∧
      (s.csrRdata = u.csrRdata → ¬hostMoves s (fun i => i = .rdCtrl) → s'.csrRdata = u'.csrRdata)

/-- 70_reset_and_hazards.md R341: the values reset leaves unspecified reach no observation: two states that differ in them
only take steps to two such states, so the model's choice of them (log 1, log 2, log 20) shows nowhere. -/
def Obligations.UnspecifiedValuesAreNotObservable : Prop :=
  ∀ s u s' : State, s.Inv → u.Inv → unseen s = unseen u → step s = .next s' →
    ∃ u', step u = .next u' ∧ unseen s' = unseen u'

/-- 10_state.md R38: a step adds 1 to IN_COUNT when it takes a data beat the block accepts, sets it to 0 when a START or the
reset input takes effect, and leaves it in every other case (whose move it is: log 6). -/
def Obligations.InCountCountsAcceptedDataBeats : Prop :=
  ∀ s t : State, step s = .next t →
    (hostMoves s (fun i => ∃ d, i = .inData d) ∧ s.inReady = true → t.inCount = s.inCount + 1) ∧
    (resetMoves s ∨ (s.st ≠ .busy ∧ hostMoves s isStart) → t.inCount = 0) ∧
    (¬(hostMoves s (fun i => ∃ d, i = .inData d) ∧ s.inReady = true) → ¬resetMoves s →
      ¬(s.st ≠ .busy ∧ hostMoves s isStart) → t.inCount = s.inCount)

/-- 45_host_interface.md R228: with nothing more from the host, the block comes to rest after finitely many steps. -/
def Obligations.BlockComesToRest : Prop :=
  ∀ s : State, s.Inv → s.host = [] →
    ∃ k t, Host.Core.run Sys2Proof.core k s = .next t ∧ t.Inv ∧ t.blockEnabled = false

/-- 00_scope.md R2, 44_stream_controller.md R193: on the same tables, the step that compresses a byte and the step that
gives it back leave the same tables, and the byte given back is the byte compressed. -/
def Obligations.DirectionsMirrorEachOther : Prop :=
  ∀ (c : Byte) (e d : State), e.At .cBody → sameTables e d → e.rank.Perm → ¬e.freqOverflows c →
    (e.predict = c → e.run.toNat ≠ 2 ^ 32 - 1 → d.At .dReplay →
      ∃ e' d', exec (.inData c) e = .next e' ∧ blockStep d = .next d' ∧
        d'.outq = d.outq ++ [c] ∧ sameTables e' d' ∧ e'.st = .busy ∧ d'.st = .busy) ∧
    (e.predict ≠ c → d.At .dLit → (e.amode = .rank ∨ e.amode = .raw) →
      ∃ i e' d', exec (.inData c) e = .next e' ∧ exec i d = .next d' ∧ i.wellFormed = true ∧
        (if e.amode = .raw then rawByteOf i = some c else rankOfToken i = some (e.rank.rankOf c)) ∧
        d'.outq = d.outq ++ [c] ∧ sameTables e' d' ∧ e'.st = .busy ∧ d'.st = .busy)

/-- 44_stream_controller.md R194: for every byte sequence too short to overflow a counter and both modes, what the
compress direction leaves in its queue, sent to the decompress direction whatever MODE its START_D word holds (R197), gives
the sequence back, and the stream is DONE once the host has taken it. The spec derives this. Its form is the model's: the
whole stream and the whole output stand in a queue without a bound (log 4), and each stream runs with the host's list as
written and no turns, one interleaving (log 6). -/
def Obligations.RoundTrip : Prop :=
  ∀ (bytes : List Byte) (m : AMode) (mode : BitVec 2) (s u : State),
    bytes.length < 2 ^ 32 → m ≠ .none → s.st ≠ .busy → u.st ≠ .busy →
    ∃ j t k v l w, Host.Core.run Sys2Proof.core j (fed (startC m) bytes s) = .next t ∧
      t.phase = .cFinish ∧ t.st = .busy ∧
      Host.Core.run Sys2Proof.core k (fed (startD mode) t.outq u) = .next v ∧
      v.phase = .dFinish ∧ v.st = .busy ∧ v.outq = bytes ∧ v.host = [] ∧
      Host.Core.run Sys2Proof.core l { v with host := List.replicate bytes.length .take } = .next w ∧
      w.st = .done ∧ w.outq = [] ∧ w.outCount.toNat = bytes.length
end

