-- ==== Sys2Proof/Laws/Decode.lean ====
section
/-! SUPPORT. Reading a field gives back what writing it put. -/

namespace Sys2Proof

@[simp] theorem bitsOfNat_length (n v : Nat) : (bitsOfNat n v).length = n := by
  induction n with
  | zero => rfl
  | succ n ih => simp [bitsOfNat, ih]

/-- GetBits reads a field back, onto what was read before, and leaves what follows. -/
theorem getBits_bitsOfNat (n a v : Nat) (rest : List Bool) :
    getBits n a (bitsOfNat n v ++ rest) = .got (a * 2 ^ n + v % 2 ^ n) rest := by
  induction n generalizing a with
  | zero => simp [bitsOfNat, getBits, Nat.mod_one]
  | succ n ih =>
    simp only [bitsOfNat, List.cons_append, getBits, ih]
    congr 1
    rw [Nat.mod_pow_succ, Nat.toNat_testBit, Nat.pow_succ]
    ring

/-- A field that fits is read back whole. -/
theorem getBits_bitsOfNat_of_lt {n v : Nat} (h : v < 2 ^ n) (rest : List Bool) :
    getBits n 0 (bitsOfNat n v ++ rest) = .got v rest := by
  rw [getBits_bitsOfNat, Nat.mod_eq_of_lt h]; simp

/-- GetBits takes exactly n bits, or waits. -/
theorem getBits_cases (n a : Nat) (bs : List Bool) :
    (bs.length < n ∧ getBits n a bs = .wait) ∨
    ∃ v, v < 2 ^ n ∧ bs = bitsOfNat n v ++ bs.drop n ∧ getBits n a bs = .got (a * 2 ^ n + v) (bs.drop n) := by
  induction n generalizing a bs with
  | zero => exact .inr ⟨0, by simp, by simp [bitsOfNat], by simp [getBits]⟩
  | succ n ih =>
    cases bs with
    | nil => exact .inl ⟨by simp, rfl⟩
    | cons b r =>
      obtain ⟨hl, hg⟩ | ⟨v, hv, hb, hg⟩ := ih (2 * a + b.toNat) r
      · exact .inl ⟨by simpa using hl, by simpa [getBits] using hg⟩
      · have hbt : b.toNat ≤ 1 := by cases b <;> simp
        have hpow : 0 < 2 ^ n := Nat.two_pow_pos n
        refine .inr ⟨b.toNat * 2 ^ n + v, ?_, ?_, ?_⟩
        · rw [Nat.pow_succ]; nlinarith
        · have htop : (b.toNat * 2 ^ n + v).testBit n = b := by
            rw [Nat.mul_comm, Nat.testBit_two_pow_mul_add _ hv]
            cases b <;> simp
          have hrest : bitsOfNat n (b.toNat * 2 ^ n + v) = bitsOfNat n v := by
            have hmod : ∀ (m x y : Nat), (∀ i, i < m → x.testBit i = y.testBit i) →
                bitsOfNat m x = bitsOfNat m y := by
              intro m
              induction m with
              | zero => intro _ _ _; rfl
              | succ m ihm =>
                intro x y hxy
                simp only [bitsOfNat, hxy m (Nat.lt_succ_self m), ihm x y fun i hi => hxy i (by omega)]
            refine hmod n _ _ fun i hi => ?_
            rw [Nat.mul_comm, Nat.testBit_two_pow_mul_add _ hv]
            simp [hi]
          simp only [bitsOfNat, htop, hrest, List.cons_append, List.drop_succ_cons]
          exact congrArg (b :: ·) hb
        · simp only [getBits, hg, List.drop_succ_cons]
          congr 1
          rw [Nat.pow_succ]
          ring

end Sys2Proof
end

