-- ==== Sys2Proof/Laws/State.lean ====
section
/-! SUPPORT. One lemma per field per update of the state: what each shared operation leaves and what it sets. -/

namespace Sys2Proof.Machine

section
variable (s : State) (b : Bool) (bs : List Bool) (c : Byte) (e : ErrCode) (n B : Nat)

@[simp] theorem State.emit_cb : (s.emit c).cb = s.cb := rfl
@[simp] theorem State.emit_ctx : (s.emit c).ctx = s.ctx := rfl
@[simp] theorem State.emit_run : (s.emit c).run = s.run := rfl
@[simp] theorem State.emit_rank : (s.emit c).rank = s.rank := rfl
@[simp] theorem State.emit_amode : (s.emit c).amode = s.amode := rfl
@[simp] theorem State.emit_adir : (s.emit c).adir = s.adir := rfl
@[simp] theorem State.emit_rem : (s.emit c).rem = s.rem := rfl
@[simp] theorem State.emit_phase : (s.emit c).phase = s.phase := rfl
@[simp] theorem State.emit_hidx : (s.emit c).hidx = s.hidx := rfl
@[simp] theorem State.emit_acc : (s.emit c).acc = s.acc := rfl
@[simp] theorem State.emit_nacc : (s.emit c).nacc = s.nacc := rfl
@[simp] theorem State.emit_cur : (s.emit c).cur = s.cur := rfl
@[simp] theorem State.emit_nleft : (s.emit c).nleft = s.nleft := rfl
@[simp] theorem State.emit_outq : (s.emit c).outq = s.outq ++ [c] := rfl
@[simp] theorem State.emit_ctrlDir : (s.emit c).ctrlDir = s.ctrlDir := rfl
@[simp] theorem State.emit_ctrlMode : (s.emit c).ctrlMode = s.ctrlMode := rfl
@[simp] theorem State.emit_st : (s.emit c).st = s.st := rfl
@[simp] theorem State.emit_err : (s.emit c).err = s.err := rfl
@[simp] theorem State.emit_inCount : (s.emit c).inCount = s.inCount := rfl
@[simp] theorem State.emit_outCount : (s.emit c).outCount = s.outCount := rfl
@[simp] theorem State.emit_csrRdata : (s.emit c).csrRdata = s.csrRdata := rfl
@[simp] theorem State.emit_taken : (s.emit c).taken = s.taken := rfl
@[simp] theorem State.emit_tok : (s.emit c).tok = s.tok := rfl
@[simp] theorem State.emit_hdrByte : (s.emit c).hdrByte = s.hdrByte := rfl
@[simp] theorem State.emit_host : (s.emit c).host = s.host := rfl
@[simp] theorem State.emit_turns : (s.emit c).turns = s.turns := rfl

@[simp] theorem State.raise_cb : (s.raise e).cb = s.cb := rfl
@[simp] theorem State.raise_ctx : (s.raise e).ctx = s.ctx := rfl
@[simp] theorem State.raise_run : (s.raise e).run = s.run := rfl
@[simp] theorem State.raise_rank : (s.raise e).rank = s.rank := rfl
@[simp] theorem State.raise_amode : (s.raise e).amode = s.amode := rfl
@[simp] theorem State.raise_adir : (s.raise e).adir = s.adir := rfl
@[simp] theorem State.raise_rem : (s.raise e).rem = s.rem := rfl
@[simp] theorem State.raise_phase : (s.raise e).phase = .halt := rfl
@[simp] theorem State.raise_hidx : (s.raise e).hidx = s.hidx := rfl
@[simp] theorem State.raise_acc : (s.raise e).acc = s.acc := rfl
@[simp] theorem State.raise_nacc : (s.raise e).nacc = s.nacc := rfl
@[simp] theorem State.raise_cur : (s.raise e).cur = s.cur := rfl
@[simp] theorem State.raise_nleft : (s.raise e).nleft = s.nleft := rfl
@[simp] theorem State.raise_outq : (s.raise e).outq = [] := rfl
@[simp] theorem State.raise_ctrlDir : (s.raise e).ctrlDir = s.ctrlDir := rfl
@[simp] theorem State.raise_ctrlMode : (s.raise e).ctrlMode = s.ctrlMode := rfl
@[simp] theorem State.raise_st : (s.raise e).st = .error := rfl
@[simp] theorem State.raise_err : (s.raise e).err = e := rfl
@[simp] theorem State.raise_inCount : (s.raise e).inCount = s.inCount := rfl
@[simp] theorem State.raise_outCount : (s.raise e).outCount = s.outCount := rfl
@[simp] theorem State.raise_csrRdata : (s.raise e).csrRdata = s.csrRdata := rfl
@[simp] theorem State.raise_taken : (s.raise e).taken = s.taken := rfl
@[simp] theorem State.raise_tok : (s.raise e).tok = [] := rfl
@[simp] theorem State.raise_hdrByte : (s.raise e).hdrByte = none := rfl
@[simp] theorem State.raise_host : (s.raise e).host = s.host := rfl
@[simp] theorem State.raise_turns : (s.raise e).turns = s.turns := rfl

@[simp] theorem State.countIn_cb : (s.countIn).cb = s.cb := rfl
@[simp] theorem State.countIn_ctx : (s.countIn).ctx = s.ctx := rfl
@[simp] theorem State.countIn_run : (s.countIn).run = s.run := rfl
@[simp] theorem State.countIn_rank : (s.countIn).rank = s.rank := rfl
@[simp] theorem State.countIn_amode : (s.countIn).amode = s.amode := rfl
@[simp] theorem State.countIn_adir : (s.countIn).adir = s.adir := rfl
@[simp] theorem State.countIn_rem : (s.countIn).rem = s.rem := rfl
@[simp] theorem State.countIn_phase : (s.countIn).phase = s.phase := rfl
@[simp] theorem State.countIn_hidx : (s.countIn).hidx = s.hidx := rfl
@[simp] theorem State.countIn_acc : (s.countIn).acc = s.acc := rfl
@[simp] theorem State.countIn_nacc : (s.countIn).nacc = s.nacc := rfl
@[simp] theorem State.countIn_cur : (s.countIn).cur = s.cur := rfl
@[simp] theorem State.countIn_nleft : (s.countIn).nleft = s.nleft := rfl
@[simp] theorem State.countIn_outq : (s.countIn).outq = s.outq := rfl
@[simp] theorem State.countIn_ctrlDir : (s.countIn).ctrlDir = s.ctrlDir := rfl
@[simp] theorem State.countIn_ctrlMode : (s.countIn).ctrlMode = s.ctrlMode := rfl
@[simp] theorem State.countIn_st : (s.countIn).st = s.st := rfl
@[simp] theorem State.countIn_err : (s.countIn).err = s.err := rfl
@[simp] theorem State.countIn_inCount : (s.countIn).inCount = s.inCount + 1 := rfl
@[simp] theorem State.countIn_outCount : (s.countIn).outCount = s.outCount := rfl
@[simp] theorem State.countIn_csrRdata : (s.countIn).csrRdata = s.csrRdata := rfl
@[simp] theorem State.countIn_taken : (s.countIn).taken = s.taken := rfl
@[simp] theorem State.countIn_tok : (s.countIn).tok = s.tok := rfl
@[simp] theorem State.countIn_hdrByte : (s.countIn).hdrByte = s.hdrByte := rfl
@[simp] theorem State.countIn_host : (s.countIn).host = s.host := rfl
@[simp] theorem State.countIn_turns : (s.countIn).turns = s.turns := rfl

@[simp] theorem State.update_cb : (s.update c).cb = Memory.write s.cb s.ctx.toNat c := rfl
@[simp] theorem State.update_ctx : (s.update c).ctx = s.ctx := rfl
@[simp] theorem State.update_run : (s.update c).run = s.run := rfl
@[simp] theorem State.update_rank : (s.update c).rank = s.rank := rfl
@[simp] theorem State.update_amode : (s.update c).amode = s.amode := rfl
@[simp] theorem State.update_adir : (s.update c).adir = s.adir := rfl
@[simp] theorem State.update_rem : (s.update c).rem = s.rem := rfl
@[simp] theorem State.update_phase : (s.update c).phase = s.phase := rfl
@[simp] theorem State.update_hidx : (s.update c).hidx = s.hidx := rfl
@[simp] theorem State.update_acc : (s.update c).acc = s.acc := rfl
@[simp] theorem State.update_nacc : (s.update c).nacc = s.nacc := rfl
@[simp] theorem State.update_cur : (s.update c).cur = s.cur := rfl
@[simp] theorem State.update_nleft : (s.update c).nleft = s.nleft := rfl
@[simp] theorem State.update_outq : (s.update c).outq = s.outq := rfl
@[simp] theorem State.update_ctrlDir : (s.update c).ctrlDir = s.ctrlDir := rfl
@[simp] theorem State.update_ctrlMode : (s.update c).ctrlMode = s.ctrlMode := rfl
@[simp] theorem State.update_st : (s.update c).st = s.st := rfl
@[simp] theorem State.update_err : (s.update c).err = s.err := rfl
@[simp] theorem State.update_inCount : (s.update c).inCount = s.inCount := rfl
@[simp] theorem State.update_outCount : (s.update c).outCount = s.outCount := rfl
@[simp] theorem State.update_csrRdata : (s.update c).csrRdata = s.csrRdata := rfl
@[simp] theorem State.update_taken : (s.update c).taken = s.taken := rfl
@[simp] theorem State.update_tok : (s.update c).tok = s.tok := rfl
@[simp] theorem State.update_hdrByte : (s.update c).hdrByte = s.hdrByte := rfl
@[simp] theorem State.update_host : (s.update c).host = s.host := rfl
@[simp] theorem State.update_turns : (s.update c).turns = s.turns := rfl

@[simp] theorem State.advance_cb : (s.advance c).cb = s.cb := rfl
@[simp] theorem State.advance_ctx : (s.advance c).ctx = nextCtx s.ctx c := rfl
@[simp] theorem State.advance_run : (s.advance c).run = s.run := rfl
@[simp] theorem State.advance_rank : (s.advance c).rank = s.rank := rfl
@[simp] theorem State.advance_amode : (s.advance c).amode = s.amode := rfl
@[simp] theorem State.advance_adir : (s.advance c).adir = s.adir := rfl
@[simp] theorem State.advance_rem : (s.advance c).rem = s.rem := rfl
@[simp] theorem State.advance_phase : (s.advance c).phase = s.phase := rfl
@[simp] theorem State.advance_hidx : (s.advance c).hidx = s.hidx := rfl
@[simp] theorem State.advance_acc : (s.advance c).acc = s.acc := rfl
@[simp] theorem State.advance_nacc : (s.advance c).nacc = s.nacc := rfl
@[simp] theorem State.advance_cur : (s.advance c).cur = s.cur := rfl
@[simp] theorem State.advance_nleft : (s.advance c).nleft = s.nleft := rfl
@[simp] theorem State.advance_outq : (s.advance c).outq = s.outq := rfl
@[simp] theorem State.advance_ctrlDir : (s.advance c).ctrlDir = s.ctrlDir := rfl
@[simp] theorem State.advance_ctrlMode : (s.advance c).ctrlMode = s.ctrlMode := rfl
@[simp] theorem State.advance_st : (s.advance c).st = s.st := rfl
@[simp] theorem State.advance_err : (s.advance c).err = s.err := rfl
@[simp] theorem State.advance_inCount : (s.advance c).inCount = s.inCount := rfl
@[simp] theorem State.advance_outCount : (s.advance c).outCount = s.outCount := rfl
@[simp] theorem State.advance_csrRdata : (s.advance c).csrRdata = s.csrRdata := rfl
@[simp] theorem State.advance_taken : (s.advance c).taken = s.taken := rfl
@[simp] theorem State.advance_tok : (s.advance c).tok = s.tok := rfl
@[simp] theorem State.advance_hdrByte : (s.advance c).hdrByte = s.hdrByte := rfl
@[simp] theorem State.advance_host : (s.advance c).host = s.host := rfl
@[simp] theorem State.advance_turns : (s.advance c).turns = s.turns := rfl

@[simp] theorem State.freshStream_cb : (s.freshStream).cb = [] := rfl
@[simp] theorem State.freshStream_ctx : (s.freshStream).ctx = 0 := rfl
@[simp] theorem State.freshStream_run : (s.freshStream).run = 0 := rfl
@[simp] theorem State.freshStream_rank : (s.freshStream).rank = RankTable.initial := rfl
@[simp] theorem State.freshStream_amode : (s.freshStream).amode = s.amode := rfl
@[simp] theorem State.freshStream_adir : (s.freshStream).adir = s.adir := rfl
@[simp] theorem State.freshStream_rem : (s.freshStream).rem = 0 := rfl
@[simp] theorem State.freshStream_phase : (s.freshStream).phase = s.phase := rfl
@[simp] theorem State.freshStream_hidx : (s.freshStream).hidx = s.hidx := rfl
@[simp] theorem State.freshStream_acc : (s.freshStream).acc = 0 := rfl
@[simp] theorem State.freshStream_nacc : (s.freshStream).nacc = 0 := rfl
@[simp] theorem State.freshStream_cur : (s.freshStream).cur = s.cur := rfl
@[simp] theorem State.freshStream_nleft : (s.freshStream).nleft = 0 := rfl
@[simp] theorem State.freshStream_outq : (s.freshStream).outq = s.outq := rfl
@[simp] theorem State.freshStream_ctrlDir : (s.freshStream).ctrlDir = s.ctrlDir := rfl
@[simp] theorem State.freshStream_ctrlMode : (s.freshStream).ctrlMode = s.ctrlMode := rfl
@[simp] theorem State.freshStream_st : (s.freshStream).st = .busy := rfl
@[simp] theorem State.freshStream_err : (s.freshStream).err = .none := rfl
@[simp] theorem State.freshStream_inCount : (s.freshStream).inCount = s.inCount := rfl
@[simp] theorem State.freshStream_outCount : (s.freshStream).outCount = s.outCount := rfl
@[simp] theorem State.freshStream_csrRdata : (s.freshStream).csrRdata = s.csrRdata := rfl
@[simp] theorem State.freshStream_taken : (s.freshStream).taken = s.taken := rfl
@[simp] theorem State.freshStream_tok : (s.freshStream).tok = [] := rfl
@[simp] theorem State.freshStream_hdrByte : (s.freshStream).hdrByte = none := rfl
@[simp] theorem State.freshStream_host : (s.freshStream).host = s.host := rfl
@[simp] theorem State.freshStream_turns : (s.freshStream).turns = s.turns := rfl

@[simp] theorem State.trackMatch_cb : (s.trackMatch c).cb = s.cb := by unfold State.trackMatch; split <;> rfl
@[simp] theorem State.trackMatch_ctx : (s.trackMatch c).ctx = s.ctx := by unfold State.trackMatch; split <;> rfl
@[simp] theorem State.trackMatch_run : (s.trackMatch c).run = s.run := by unfold State.trackMatch; split <;> rfl
@[simp] theorem State.trackMatch_rank : (s.trackMatch c).rank = if s.amode = .rank then s.rank.onMatchedByte c else s.rank := by unfold State.trackMatch; split <;> rfl
@[simp] theorem State.trackMatch_amode : (s.trackMatch c).amode = s.amode := by unfold State.trackMatch; split <;> rfl
@[simp] theorem State.trackMatch_adir : (s.trackMatch c).adir = s.adir := by unfold State.trackMatch; split <;> rfl
@[simp] theorem State.trackMatch_rem : (s.trackMatch c).rem = s.rem := by unfold State.trackMatch; split <;> rfl
@[simp] theorem State.trackMatch_phase : (s.trackMatch c).phase = s.phase := by unfold State.trackMatch; split <;> rfl
@[simp] theorem State.trackMatch_hidx : (s.trackMatch c).hidx = s.hidx := by unfold State.trackMatch; split <;> rfl
@[simp] theorem State.trackMatch_acc : (s.trackMatch c).acc = s.acc := by unfold State.trackMatch; split <;> rfl
@[simp] theorem State.trackMatch_nacc : (s.trackMatch c).nacc = s.nacc := by unfold State.trackMatch; split <;> rfl
@[simp] theorem State.trackMatch_cur : (s.trackMatch c).cur = s.cur := by unfold State.trackMatch; split <;> rfl
@[simp] theorem State.trackMatch_nleft : (s.trackMatch c).nleft = s.nleft := by unfold State.trackMatch; split <;> rfl
@[simp] theorem State.trackMatch_outq : (s.trackMatch c).outq = s.outq := by unfold State.trackMatch; split <;> rfl
@[simp] theorem State.trackMatch_ctrlDir : (s.trackMatch c).ctrlDir = s.ctrlDir := by unfold State.trackMatch; split <;> rfl
@[simp] theorem State.trackMatch_ctrlMode : (s.trackMatch c).ctrlMode = s.ctrlMode := by unfold State.trackMatch; split <;> rfl
@[simp] theorem State.trackMatch_st : (s.trackMatch c).st = s.st := by unfold State.trackMatch; split <;> rfl
@[simp] theorem State.trackMatch_err : (s.trackMatch c).err = s.err := by unfold State.trackMatch; split <;> rfl
@[simp] theorem State.trackMatch_inCount : (s.trackMatch c).inCount = s.inCount := by unfold State.trackMatch; split <;> rfl
@[simp] theorem State.trackMatch_outCount : (s.trackMatch c).outCount = s.outCount := by unfold State.trackMatch; split <;> rfl
@[simp] theorem State.trackMatch_csrRdata : (s.trackMatch c).csrRdata = s.csrRdata := by unfold State.trackMatch; split <;> rfl
@[simp] theorem State.trackMatch_taken : (s.trackMatch c).taken = s.taken := by unfold State.trackMatch; split <;> rfl
@[simp] theorem State.trackMatch_tok : (s.trackMatch c).tok = s.tok := by unfold State.trackMatch; split <;> rfl
@[simp] theorem State.trackMatch_hdrByte : (s.trackMatch c).hdrByte = s.hdrByte := by unfold State.trackMatch; split <;> rfl
@[simp] theorem State.trackMatch_host : (s.trackMatch c).host = s.host := by unfold State.trackMatch; split <;> rfl
@[simp] theorem State.trackMatch_turns : (s.trackMatch c).turns = s.turns := by unfold State.trackMatch; split <;> rfl

@[simp] theorem State.putBit_cb : (s.putBit b).cb = s.cb := by unfold State.putBit; dsimp only; split <;> rfl
@[simp] theorem State.putBit_ctx : (s.putBit b).ctx = s.ctx := by unfold State.putBit; dsimp only; split <;> rfl
@[simp] theorem State.putBit_run : (s.putBit b).run = s.run := by unfold State.putBit; dsimp only; split <;> rfl
@[simp] theorem State.putBit_rank : (s.putBit b).rank = s.rank := by unfold State.putBit; dsimp only; split <;> rfl
@[simp] theorem State.putBit_amode : (s.putBit b).amode = s.amode := by unfold State.putBit; dsimp only; split <;> rfl
@[simp] theorem State.putBit_adir : (s.putBit b).adir = s.adir := by unfold State.putBit; dsimp only; split <;> rfl
@[simp] theorem State.putBit_rem : (s.putBit b).rem = s.rem := by unfold State.putBit; dsimp only; split <;> rfl
@[simp] theorem State.putBit_phase : (s.putBit b).phase = s.phase := by unfold State.putBit; dsimp only; split <;> rfl
@[simp] theorem State.putBit_hidx : (s.putBit b).hidx = s.hidx := by unfold State.putBit; dsimp only; split <;> rfl
@[simp] theorem State.putBit_cur : (s.putBit b).cur = s.cur := by unfold State.putBit; dsimp only; split <;> rfl
@[simp] theorem State.putBit_nleft : (s.putBit b).nleft = s.nleft := by unfold State.putBit; dsimp only; split <;> rfl
@[simp] theorem State.putBit_ctrlDir : (s.putBit b).ctrlDir = s.ctrlDir := by unfold State.putBit; dsimp only; split <;> rfl
@[simp] theorem State.putBit_ctrlMode : (s.putBit b).ctrlMode = s.ctrlMode := by unfold State.putBit; dsimp only; split <;> rfl
@[simp] theorem State.putBit_st : (s.putBit b).st = s.st := by unfold State.putBit; dsimp only; split <;> rfl
@[simp] theorem State.putBit_err : (s.putBit b).err = s.err := by unfold State.putBit; dsimp only; split <;> rfl
@[simp] theorem State.putBit_inCount : (s.putBit b).inCount = s.inCount := by unfold State.putBit; dsimp only; split <;> rfl
@[simp] theorem State.putBit_outCount : (s.putBit b).outCount = s.outCount := by unfold State.putBit; dsimp only; split <;> rfl
@[simp] theorem State.putBit_csrRdata : (s.putBit b).csrRdata = s.csrRdata := by unfold State.putBit; dsimp only; split <;> rfl
@[simp] theorem State.putBit_taken : (s.putBit b).taken = s.taken := by unfold State.putBit; dsimp only; split <;> rfl
@[simp] theorem State.putBit_tok : (s.putBit b).tok = s.tok := by unfold State.putBit; dsimp only; split <;> rfl
@[simp] theorem State.putBit_hdrByte : (s.putBit b).hdrByte = s.hdrByte := by unfold State.putBit; dsimp only; split <;> rfl
@[simp] theorem State.putBit_host : (s.putBit b).host = s.host := by unfold State.putBit; dsimp only; split <;> rfl
@[simp] theorem State.putBit_turns : (s.putBit b).turns = s.turns := by unfold State.putBit; dsimp only; split <;> rfl

@[simp] theorem State.putList_cb : (s.putList bs).cb = s.cb := by induction bs generalizing s with | nil => rfl | cons b r ih => exact (ih _).trans (State.putBit_cb s b)
@[simp] theorem State.putList_ctx : (s.putList bs).ctx = s.ctx := by induction bs generalizing s with | nil => rfl | cons b r ih => exact (ih _).trans (State.putBit_ctx s b)
@[simp] theorem State.putList_run : (s.putList bs).run = s.run := by induction bs generalizing s with | nil => rfl | cons b r ih => exact (ih _).trans (State.putBit_run s b)
@[simp] theorem State.putList_rank : (s.putList bs).rank = s.rank := by induction bs generalizing s with | nil => rfl | cons b r ih => exact (ih _).trans (State.putBit_rank s b)
@[simp] theorem State.putList_amode : (s.putList bs).amode = s.amode := by induction bs generalizing s with | nil => rfl | cons b r ih => exact (ih _).trans (State.putBit_amode s b)
@[simp] theorem State.putList_adir : (s.putList bs).adir = s.adir := by induction bs generalizing s with | nil => rfl | cons b r ih => exact (ih _).trans (State.putBit_adir s b)
@[simp] theorem State.putList_rem : (s.putList bs).rem = s.rem := by induction bs generalizing s with | nil => rfl | cons b r ih => exact (ih _).trans (State.putBit_rem s b)
@[simp] theorem State.putList_phase : (s.putList bs).phase = s.phase := by induction bs generalizing s with | nil => rfl | cons b r ih => exact (ih _).trans (State.putBit_phase s b)
@[simp] theorem State.putList_hidx : (s.putList bs).hidx = s.hidx := by induction bs generalizing s with | nil => rfl | cons b r ih => exact (ih _).trans (State.putBit_hidx s b)
@[simp] theorem State.putList_cur : (s.putList bs).cur = s.cur := by induction bs generalizing s with | nil => rfl | cons b r ih => exact (ih _).trans (State.putBit_cur s b)
@[simp] theorem State.putList_nleft : (s.putList bs).nleft = s.nleft := by induction bs generalizing s with | nil => rfl | cons b r ih => exact (ih _).trans (State.putBit_nleft s b)
@[simp] theorem State.putList_ctrlDir : (s.putList bs).ctrlDir = s.ctrlDir := by induction bs generalizing s with | nil => rfl | cons b r ih => exact (ih _).trans (State.putBit_ctrlDir s b)
@[simp] theorem State.putList_ctrlMode : (s.putList bs).ctrlMode = s.ctrlMode := by induction bs generalizing s with | nil => rfl | cons b r ih => exact (ih _).trans (State.putBit_ctrlMode s b)
@[simp] theorem State.putList_st : (s.putList bs).st = s.st := by induction bs generalizing s with | nil => rfl | cons b r ih => exact (ih _).trans (State.putBit_st s b)
@[simp] theorem State.putList_err : (s.putList bs).err = s.err := by induction bs generalizing s with | nil => rfl | cons b r ih => exact (ih _).trans (State.putBit_err s b)
@[simp] theorem State.putList_inCount : (s.putList bs).inCount = s.inCount := by induction bs generalizing s with | nil => rfl | cons b r ih => exact (ih _).trans (State.putBit_inCount s b)
@[simp] theorem State.putList_outCount : (s.putList bs).outCount = s.outCount := by induction bs generalizing s with | nil => rfl | cons b r ih => exact (ih _).trans (State.putBit_outCount s b)
@[simp] theorem State.putList_csrRdata : (s.putList bs).csrRdata = s.csrRdata := by induction bs generalizing s with | nil => rfl | cons b r ih => exact (ih _).trans (State.putBit_csrRdata s b)
@[simp] theorem State.putList_taken : (s.putList bs).taken = s.taken := by induction bs generalizing s with | nil => rfl | cons b r ih => exact (ih _).trans (State.putBit_taken s b)
@[simp] theorem State.putList_tok : (s.putList bs).tok = s.tok := by induction bs generalizing s with | nil => rfl | cons b r ih => exact (ih _).trans (State.putBit_tok s b)
@[simp] theorem State.putList_hdrByte : (s.putList bs).hdrByte = s.hdrByte := by induction bs generalizing s with | nil => rfl | cons b r ih => exact (ih _).trans (State.putBit_hdrByte s b)
@[simp] theorem State.putList_host : (s.putList bs).host = s.host := by induction bs generalizing s with | nil => rfl | cons b r ih => exact (ih _).trans (State.putBit_host s b)
@[simp] theorem State.putList_turns : (s.putList bs).turns = s.turns := by induction bs generalizing s with | nil => rfl | cons b r ih => exact (ih _).trans (State.putBit_turns s b)

@[simp] theorem State.putBits_cb : (s.putBits n B).cb = s.cb := by unfold State.putBits; simp
@[simp] theorem State.putBits_ctx : (s.putBits n B).ctx = s.ctx := by unfold State.putBits; simp
@[simp] theorem State.putBits_run : (s.putBits n B).run = s.run := by unfold State.putBits; simp
@[simp] theorem State.putBits_rank : (s.putBits n B).rank = s.rank := by unfold State.putBits; simp
@[simp] theorem State.putBits_amode : (s.putBits n B).amode = s.amode := by unfold State.putBits; simp
@[simp] theorem State.putBits_adir : (s.putBits n B).adir = s.adir := by unfold State.putBits; simp
@[simp] theorem State.putBits_rem : (s.putBits n B).rem = s.rem := by unfold State.putBits; simp
@[simp] theorem State.putBits_phase : (s.putBits n B).phase = s.phase := by unfold State.putBits; simp
@[simp] theorem State.putBits_hidx : (s.putBits n B).hidx = s.hidx := by unfold State.putBits; simp
@[simp] theorem State.putBits_cur : (s.putBits n B).cur = s.cur := by unfold State.putBits; simp
@[simp] theorem State.putBits_nleft : (s.putBits n B).nleft = s.nleft := by unfold State.putBits; simp
@[simp] theorem State.putBits_ctrlDir : (s.putBits n B).ctrlDir = s.ctrlDir := by unfold State.putBits; simp
@[simp] theorem State.putBits_ctrlMode : (s.putBits n B).ctrlMode = s.ctrlMode := by unfold State.putBits; simp
@[simp] theorem State.putBits_st : (s.putBits n B).st = s.st := by unfold State.putBits; simp
@[simp] theorem State.putBits_err : (s.putBits n B).err = s.err := by unfold State.putBits; simp
@[simp] theorem State.putBits_inCount : (s.putBits n B).inCount = s.inCount := by unfold State.putBits; simp
@[simp] theorem State.putBits_outCount : (s.putBits n B).outCount = s.outCount := by unfold State.putBits; simp
@[simp] theorem State.putBits_csrRdata : (s.putBits n B).csrRdata = s.csrRdata := by unfold State.putBits; simp
@[simp] theorem State.putBits_taken : (s.putBits n B).taken = s.taken := by unfold State.putBits; simp
@[simp] theorem State.putBits_tok : (s.putBits n B).tok = s.tok := by unfold State.putBits; simp
@[simp] theorem State.putBits_hdrByte : (s.putBits n B).hdrByte = s.hdrByte := by unfold State.putBits; simp
@[simp] theorem State.putBits_host : (s.putBits n B).host = s.host := by unfold State.putBits; simp
@[simp] theorem State.putBits_turns : (s.putBits n B).turns = s.turns := by unfold State.putBits; simp

@[simp] theorem State.putVLC_cb : (s.putVLC n B).cb = s.cb := by unfold State.putVLC; simp
@[simp] theorem State.putVLC_ctx : (s.putVLC n B).ctx = s.ctx := by unfold State.putVLC; simp
@[simp] theorem State.putVLC_run : (s.putVLC n B).run = s.run := by unfold State.putVLC; simp
@[simp] theorem State.putVLC_rank : (s.putVLC n B).rank = s.rank := by unfold State.putVLC; simp
@[simp] theorem State.putVLC_amode : (s.putVLC n B).amode = s.amode := by unfold State.putVLC; simp
@[simp] theorem State.putVLC_adir : (s.putVLC n B).adir = s.adir := by unfold State.putVLC; simp
@[simp] theorem State.putVLC_rem : (s.putVLC n B).rem = s.rem := by unfold State.putVLC; simp
@[simp] theorem State.putVLC_phase : (s.putVLC n B).phase = s.phase := by unfold State.putVLC; simp
@[simp] theorem State.putVLC_hidx : (s.putVLC n B).hidx = s.hidx := by unfold State.putVLC; simp
@[simp] theorem State.putVLC_cur : (s.putVLC n B).cur = s.cur := by unfold State.putVLC; simp
@[simp] theorem State.putVLC_nleft : (s.putVLC n B).nleft = s.nleft := by unfold State.putVLC; simp
@[simp] theorem State.putVLC_ctrlDir : (s.putVLC n B).ctrlDir = s.ctrlDir := by unfold State.putVLC; simp
@[simp] theorem State.putVLC_ctrlMode : (s.putVLC n B).ctrlMode = s.ctrlMode := by unfold State.putVLC; simp
@[simp] theorem State.putVLC_st : (s.putVLC n B).st = s.st := by unfold State.putVLC; simp
@[simp] theorem State.putVLC_err : (s.putVLC n B).err = s.err := by unfold State.putVLC; simp
@[simp] theorem State.putVLC_inCount : (s.putVLC n B).inCount = s.inCount := by unfold State.putVLC; simp
@[simp] theorem State.putVLC_outCount : (s.putVLC n B).outCount = s.outCount := by unfold State.putVLC; simp
@[simp] theorem State.putVLC_csrRdata : (s.putVLC n B).csrRdata = s.csrRdata := by unfold State.putVLC; simp
@[simp] theorem State.putVLC_taken : (s.putVLC n B).taken = s.taken := by unfold State.putVLC; simp
@[simp] theorem State.putVLC_tok : (s.putVLC n B).tok = s.tok := by unfold State.putVLC; simp
@[simp] theorem State.putVLC_hdrByte : (s.putVLC n B).hdrByte = s.hdrByte := by unfold State.putVLC; simp
@[simp] theorem State.putVLC_host : (s.putVLC n B).host = s.host := by unfold State.putVLC; simp
@[simp] theorem State.putVLC_turns : (s.putVLC n B).turns = s.turns := by unfold State.putVLC; simp

@[simp] theorem State.padLoop_cb : (s.padLoop n).cb = s.cb := by induction n generalizing s with | zero => rfl | succ m ih => unfold State.padLoop; split <;> simp [ih]
@[simp] theorem State.padLoop_ctx : (s.padLoop n).ctx = s.ctx := by induction n generalizing s with | zero => rfl | succ m ih => unfold State.padLoop; split <;> simp [ih]
@[simp] theorem State.padLoop_run : (s.padLoop n).run = s.run := by induction n generalizing s with | zero => rfl | succ m ih => unfold State.padLoop; split <;> simp [ih]
@[simp] theorem State.padLoop_rank : (s.padLoop n).rank = s.rank := by induction n generalizing s with | zero => rfl | succ m ih => unfold State.padLoop; split <;> simp [ih]
@[simp] theorem State.padLoop_amode : (s.padLoop n).amode = s.amode := by induction n generalizing s with | zero => rfl | succ m ih => unfold State.padLoop; split <;> simp [ih]
@[simp] theorem State.padLoop_adir : (s.padLoop n).adir = s.adir := by induction n generalizing s with | zero => rfl | succ m ih => unfold State.padLoop; split <;> simp [ih]
@[simp] theorem State.padLoop_rem : (s.padLoop n).rem = s.rem := by induction n generalizing s with | zero => rfl | succ m ih => unfold State.padLoop; split <;> simp [ih]
@[simp] theorem State.padLoop_phase : (s.padLoop n).phase = s.phase := by induction n generalizing s with | zero => rfl | succ m ih => unfold State.padLoop; split <;> simp [ih]
@[simp] theorem State.padLoop_hidx : (s.padLoop n).hidx = s.hidx := by induction n generalizing s with | zero => rfl | succ m ih => unfold State.padLoop; split <;> simp [ih]
@[simp] theorem State.padLoop_cur : (s.padLoop n).cur = s.cur := by induction n generalizing s with | zero => rfl | succ m ih => unfold State.padLoop; split <;> simp [ih]
@[simp] theorem State.padLoop_nleft : (s.padLoop n).nleft = s.nleft := by induction n generalizing s with | zero => rfl | succ m ih => unfold State.padLoop; split <;> simp [ih]
@[simp] theorem State.padLoop_ctrlDir : (s.padLoop n).ctrlDir = s.ctrlDir := by induction n generalizing s with | zero => rfl | succ m ih => unfold State.padLoop; split <;> simp [ih]
@[simp] theorem State.padLoop_ctrlMode : (s.padLoop n).ctrlMode = s.ctrlMode := by induction n generalizing s with | zero => rfl | succ m ih => unfold State.padLoop; split <;> simp [ih]
@[simp] theorem State.padLoop_st : (s.padLoop n).st = s.st := by induction n generalizing s with | zero => rfl | succ m ih => unfold State.padLoop; split <;> simp [ih]
@[simp] theorem State.padLoop_err : (s.padLoop n).err = s.err := by induction n generalizing s with | zero => rfl | succ m ih => unfold State.padLoop; split <;> simp [ih]
@[simp] theorem State.padLoop_inCount : (s.padLoop n).inCount = s.inCount := by induction n generalizing s with | zero => rfl | succ m ih => unfold State.padLoop; split <;> simp [ih]
@[simp] theorem State.padLoop_outCount : (s.padLoop n).outCount = s.outCount := by induction n generalizing s with | zero => rfl | succ m ih => unfold State.padLoop; split <;> simp [ih]
@[simp] theorem State.padLoop_csrRdata : (s.padLoop n).csrRdata = s.csrRdata := by induction n generalizing s with | zero => rfl | succ m ih => unfold State.padLoop; split <;> simp [ih]
@[simp] theorem State.padLoop_taken : (s.padLoop n).taken = s.taken := by induction n generalizing s with | zero => rfl | succ m ih => unfold State.padLoop; split <;> simp [ih]
@[simp] theorem State.padLoop_tok : (s.padLoop n).tok = s.tok := by induction n generalizing s with | zero => rfl | succ m ih => unfold State.padLoop; split <;> simp [ih]
@[simp] theorem State.padLoop_hdrByte : (s.padLoop n).hdrByte = s.hdrByte := by induction n generalizing s with | zero => rfl | succ m ih => unfold State.padLoop; split <;> simp [ih]
@[simp] theorem State.padLoop_host : (s.padLoop n).host = s.host := by induction n generalizing s with | zero => rfl | succ m ih => unfold State.padLoop; split <;> simp [ih]
@[simp] theorem State.padLoop_turns : (s.padLoop n).turns = s.turns := by induction n generalizing s with | zero => rfl | succ m ih => unfold State.padLoop; split <;> simp [ih]

@[simp] theorem State.padToByte_cb : (s.padToByte).cb = s.cb := by unfold State.padToByte; simp
@[simp] theorem State.padToByte_ctx : (s.padToByte).ctx = s.ctx := by unfold State.padToByte; simp
@[simp] theorem State.padToByte_run : (s.padToByte).run = s.run := by unfold State.padToByte; simp
@[simp] theorem State.padToByte_rank : (s.padToByte).rank = s.rank := by unfold State.padToByte; simp
@[simp] theorem State.padToByte_amode : (s.padToByte).amode = s.amode := by unfold State.padToByte; simp
@[simp] theorem State.padToByte_adir : (s.padToByte).adir = s.adir := by unfold State.padToByte; simp
@[simp] theorem State.padToByte_rem : (s.padToByte).rem = s.rem := by unfold State.padToByte; simp
@[simp] theorem State.padToByte_phase : (s.padToByte).phase = s.phase := by unfold State.padToByte; simp
@[simp] theorem State.padToByte_hidx : (s.padToByte).hidx = s.hidx := by unfold State.padToByte; simp
@[simp] theorem State.padToByte_cur : (s.padToByte).cur = s.cur := by unfold State.padToByte; simp
@[simp] theorem State.padToByte_nleft : (s.padToByte).nleft = s.nleft := by unfold State.padToByte; simp
@[simp] theorem State.padToByte_ctrlDir : (s.padToByte).ctrlDir = s.ctrlDir := by unfold State.padToByte; simp
@[simp] theorem State.padToByte_ctrlMode : (s.padToByte).ctrlMode = s.ctrlMode := by unfold State.padToByte; simp
@[simp] theorem State.padToByte_st : (s.padToByte).st = s.st := by unfold State.padToByte; simp
@[simp] theorem State.padToByte_err : (s.padToByte).err = s.err := by unfold State.padToByte; simp
@[simp] theorem State.padToByte_inCount : (s.padToByte).inCount = s.inCount := by unfold State.padToByte; simp
@[simp] theorem State.padToByte_outCount : (s.padToByte).outCount = s.outCount := by unfold State.padToByte; simp
@[simp] theorem State.padToByte_csrRdata : (s.padToByte).csrRdata = s.csrRdata := by unfold State.padToByte; simp
@[simp] theorem State.padToByte_taken : (s.padToByte).taken = s.taken := by unfold State.padToByte; simp
@[simp] theorem State.padToByte_tok : (s.padToByte).tok = s.tok := by unfold State.padToByte; simp
@[simp] theorem State.padToByte_hdrByte : (s.padToByte).hdrByte = s.hdrByte := by unfold State.padToByte; simp
@[simp] theorem State.padToByte_host : (s.padToByte).host = s.host := by unfold State.padToByte; simp
@[simp] theorem State.padToByte_turns : (s.padToByte).turns = s.turns := by unfold State.padToByte; simp

@[simp] theorem State.runFlush_cb : (s.runFlush).cb = s.cb := by unfold State.runFlush; dsimp only; try split <;> simp
@[simp] theorem State.runFlush_ctx : (s.runFlush).ctx = s.ctx := by unfold State.runFlush; dsimp only; try split <;> simp
@[simp] theorem State.runFlush_run : (s.runFlush).run = 0 := rfl
@[simp] theorem State.runFlush_rank : (s.runFlush).rank = s.rank := by unfold State.runFlush; dsimp only; try split <;> simp
@[simp] theorem State.runFlush_amode : (s.runFlush).amode = s.amode := by unfold State.runFlush; dsimp only; try split <;> simp
@[simp] theorem State.runFlush_adir : (s.runFlush).adir = s.adir := by unfold State.runFlush; dsimp only; try split <;> simp
@[simp] theorem State.runFlush_rem : (s.runFlush).rem = s.rem := by unfold State.runFlush; dsimp only; try split <;> simp
@[simp] theorem State.runFlush_phase : (s.runFlush).phase = s.phase := by unfold State.runFlush; dsimp only; try split <;> simp
@[simp] theorem State.runFlush_hidx : (s.runFlush).hidx = s.hidx := by unfold State.runFlush; dsimp only; try split <;> simp
@[simp] theorem State.runFlush_cur : (s.runFlush).cur = s.cur := by unfold State.runFlush; dsimp only; try split <;> simp
@[simp] theorem State.runFlush_nleft : (s.runFlush).nleft = s.nleft := by unfold State.runFlush; dsimp only; try split <;> simp
@[simp] theorem State.runFlush_ctrlDir : (s.runFlush).ctrlDir = s.ctrlDir := by unfold State.runFlush; dsimp only; try split <;> simp
@[simp] theorem State.runFlush_ctrlMode : (s.runFlush).ctrlMode = s.ctrlMode := by unfold State.runFlush; dsimp only; try split <;> simp
@[simp] theorem State.runFlush_st : (s.runFlush).st = s.st := by unfold State.runFlush; dsimp only; try split <;> simp
@[simp] theorem State.runFlush_err : (s.runFlush).err = s.err := by unfold State.runFlush; dsimp only; try split <;> simp
@[simp] theorem State.runFlush_inCount : (s.runFlush).inCount = s.inCount := by unfold State.runFlush; dsimp only; try split <;> simp
@[simp] theorem State.runFlush_outCount : (s.runFlush).outCount = s.outCount := by unfold State.runFlush; dsimp only; try split <;> simp
@[simp] theorem State.runFlush_csrRdata : (s.runFlush).csrRdata = s.csrRdata := by unfold State.runFlush; dsimp only; try split <;> simp
@[simp] theorem State.runFlush_taken : (s.runFlush).taken = s.taken := by unfold State.runFlush; dsimp only; try split <;> simp
@[simp] theorem State.runFlush_tok : (s.runFlush).tok = s.tok := by unfold State.runFlush; dsimp only; try split <;> simp
@[simp] theorem State.runFlush_hdrByte : (s.runFlush).hdrByte = s.hdrByte := by unfold State.runFlush; dsimp only; try split <;> simp
@[simp] theorem State.runFlush_host : (s.runFlush).host = s.host := by unfold State.runFlush; dsimp only; try split <;> simp
@[simp] theorem State.runFlush_turns : (s.runFlush).turns = s.turns := by unfold State.runFlush; dsimp only; try split <;> simp

@[simp] theorem State.litEncode_cb : (s.litEncode c).cb = s.cb := by unfold State.litEncode State.rawLitEncode State.rankLitEncode; dsimp only; split <;> (try split) <;> simp
@[simp] theorem State.litEncode_ctx : (s.litEncode c).ctx = s.ctx := by unfold State.litEncode State.rawLitEncode State.rankLitEncode; dsimp only; split <;> (try split) <;> simp
@[simp] theorem State.litEncode_run : (s.litEncode c).run = s.run := by unfold State.litEncode State.rawLitEncode State.rankLitEncode; dsimp only; split <;> (try split) <;> simp
@[simp] theorem State.litEncode_rank : (s.litEncode c).rank = if s.amode = .raw then s.rank else s.rank.onLiteralByte c := by unfold State.litEncode State.rawLitEncode State.rankLitEncode; dsimp only; split <;> (try split) <;> simp
@[simp] theorem State.litEncode_amode : (s.litEncode c).amode = s.amode := by unfold State.litEncode State.rawLitEncode State.rankLitEncode; dsimp only; split <;> (try split) <;> simp
@[simp] theorem State.litEncode_adir : (s.litEncode c).adir = s.adir := by unfold State.litEncode State.rawLitEncode State.rankLitEncode; dsimp only; split <;> (try split) <;> simp
@[simp] theorem State.litEncode_rem : (s.litEncode c).rem = s.rem := by unfold State.litEncode State.rawLitEncode State.rankLitEncode; dsimp only; split <;> (try split) <;> simp
@[simp] theorem State.litEncode_phase : (s.litEncode c).phase = s.phase := by unfold State.litEncode State.rawLitEncode State.rankLitEncode; dsimp only; split <;> (try split) <;> simp
@[simp] theorem State.litEncode_hidx : (s.litEncode c).hidx = s.hidx := by unfold State.litEncode State.rawLitEncode State.rankLitEncode; dsimp only; split <;> (try split) <;> simp
@[simp] theorem State.litEncode_cur : (s.litEncode c).cur = s.cur := by unfold State.litEncode State.rawLitEncode State.rankLitEncode; dsimp only; split <;> (try split) <;> simp
@[simp] theorem State.litEncode_nleft : (s.litEncode c).nleft = s.nleft := by unfold State.litEncode State.rawLitEncode State.rankLitEncode; dsimp only; split <;> (try split) <;> simp
@[simp] theorem State.litEncode_ctrlDir : (s.litEncode c).ctrlDir = s.ctrlDir := by unfold State.litEncode State.rawLitEncode State.rankLitEncode; dsimp only; split <;> (try split) <;> simp
@[simp] theorem State.litEncode_ctrlMode : (s.litEncode c).ctrlMode = s.ctrlMode := by unfold State.litEncode State.rawLitEncode State.rankLitEncode; dsimp only; split <;> (try split) <;> simp
@[simp] theorem State.litEncode_st : (s.litEncode c).st = s.st := by unfold State.litEncode State.rawLitEncode State.rankLitEncode; dsimp only; split <;> (try split) <;> simp
@[simp] theorem State.litEncode_err : (s.litEncode c).err = s.err := by unfold State.litEncode State.rawLitEncode State.rankLitEncode; dsimp only; split <;> (try split) <;> simp
@[simp] theorem State.litEncode_inCount : (s.litEncode c).inCount = s.inCount := by unfold State.litEncode State.rawLitEncode State.rankLitEncode; dsimp only; split <;> (try split) <;> simp
@[simp] theorem State.litEncode_outCount : (s.litEncode c).outCount = s.outCount := by unfold State.litEncode State.rawLitEncode State.rankLitEncode; dsimp only; split <;> (try split) <;> simp
@[simp] theorem State.litEncode_csrRdata : (s.litEncode c).csrRdata = s.csrRdata := by unfold State.litEncode State.rawLitEncode State.rankLitEncode; dsimp only; split <;> (try split) <;> simp
@[simp] theorem State.litEncode_taken : (s.litEncode c).taken = s.taken := by unfold State.litEncode State.rawLitEncode State.rankLitEncode; dsimp only; split <;> (try split) <;> simp
@[simp] theorem State.litEncode_tok : (s.litEncode c).tok = s.tok := by unfold State.litEncode State.rawLitEncode State.rankLitEncode; dsimp only; split <;> (try split) <;> simp
@[simp] theorem State.litEncode_hdrByte : (s.litEncode c).hdrByte = s.hdrByte := by unfold State.litEncode State.rawLitEncode State.rankLitEncode; dsimp only; split <;> (try split) <;> simp
@[simp] theorem State.litEncode_host : (s.litEncode c).host = s.host := by unfold State.litEncode State.rawLitEncode State.rankLitEncode; dsimp only; split <;> (try split) <;> simp
@[simp] theorem State.litEncode_turns : (s.litEncode c).turns = s.turns := by unfold State.litEncode State.rawLitEncode State.rankLitEncode; dsimp only; split <;> (try split) <;> simp

@[simp] theorem State.eosEncode_cb : (s.eosEncode).cb = s.cb := by unfold State.eosEncode State.rawEosEncode State.rankEosEncode; split <;> simp
@[simp] theorem State.eosEncode_ctx : (s.eosEncode).ctx = s.ctx := by unfold State.eosEncode State.rawEosEncode State.rankEosEncode; split <;> simp
@[simp] theorem State.eosEncode_run : (s.eosEncode).run = s.run := by unfold State.eosEncode State.rawEosEncode State.rankEosEncode; split <;> simp
@[simp] theorem State.eosEncode_rank : (s.eosEncode).rank = s.rank := by unfold State.eosEncode State.rawEosEncode State.rankEosEncode; split <;> simp
@[simp] theorem State.eosEncode_amode : (s.eosEncode).amode = s.amode := by unfold State.eosEncode State.rawEosEncode State.rankEosEncode; split <;> simp
@[simp] theorem State.eosEncode_adir : (s.eosEncode).adir = s.adir := by unfold State.eosEncode State.rawEosEncode State.rankEosEncode; split <;> simp
@[simp] theorem State.eosEncode_rem : (s.eosEncode).rem = s.rem := by unfold State.eosEncode State.rawEosEncode State.rankEosEncode; split <;> simp
@[simp] theorem State.eosEncode_phase : (s.eosEncode).phase = s.phase := by unfold State.eosEncode State.rawEosEncode State.rankEosEncode; split <;> simp
@[simp] theorem State.eosEncode_hidx : (s.eosEncode).hidx = s.hidx := by unfold State.eosEncode State.rawEosEncode State.rankEosEncode; split <;> simp
@[simp] theorem State.eosEncode_cur : (s.eosEncode).cur = s.cur := by unfold State.eosEncode State.rawEosEncode State.rankEosEncode; split <;> simp
@[simp] theorem State.eosEncode_nleft : (s.eosEncode).nleft = s.nleft := by unfold State.eosEncode State.rawEosEncode State.rankEosEncode; split <;> simp
@[simp] theorem State.eosEncode_ctrlDir : (s.eosEncode).ctrlDir = s.ctrlDir := by unfold State.eosEncode State.rawEosEncode State.rankEosEncode; split <;> simp
@[simp] theorem State.eosEncode_ctrlMode : (s.eosEncode).ctrlMode = s.ctrlMode := by unfold State.eosEncode State.rawEosEncode State.rankEosEncode; split <;> simp
@[simp] theorem State.eosEncode_st : (s.eosEncode).st = s.st := by unfold State.eosEncode State.rawEosEncode State.rankEosEncode; split <;> simp
@[simp] theorem State.eosEncode_err : (s.eosEncode).err = s.err := by unfold State.eosEncode State.rawEosEncode State.rankEosEncode; split <;> simp
@[simp] theorem State.eosEncode_inCount : (s.eosEncode).inCount = s.inCount := by unfold State.eosEncode State.rawEosEncode State.rankEosEncode; split <;> simp
@[simp] theorem State.eosEncode_outCount : (s.eosEncode).outCount = s.outCount := by unfold State.eosEncode State.rawEosEncode State.rankEosEncode; split <;> simp
@[simp] theorem State.eosEncode_csrRdata : (s.eosEncode).csrRdata = s.csrRdata := by unfold State.eosEncode State.rawEosEncode State.rankEosEncode; split <;> simp
@[simp] theorem State.eosEncode_taken : (s.eosEncode).taken = s.taken := by unfold State.eosEncode State.rawEosEncode State.rankEosEncode; split <;> simp
@[simp] theorem State.eosEncode_tok : (s.eosEncode).tok = s.tok := by unfold State.eosEncode State.rawEosEncode State.rankEosEncode; split <;> simp
@[simp] theorem State.eosEncode_hdrByte : (s.eosEncode).hdrByte = s.hdrByte := by unfold State.eosEncode State.rawEosEncode State.rankEosEncode; split <;> simp
@[simp] theorem State.eosEncode_host : (s.eosEncode).host = s.host := by unfold State.eosEncode State.rawEosEncode State.rankEosEncode; split <;> simp
@[simp] theorem State.eosEncode_turns : (s.eosEncode).turns = s.turns := by unfold State.eosEncode State.rawEosEncode State.rankEosEncode; split <;> simp

end

end Sys2Proof.Machine
end

