-- ==== Sys2Proof/Laws/Memory.lean ====
section
/-! SUPPORT. The ContextBuffer's cells: a read after a write, and the canonical form. -/

namespace Sys2Proof.Machine

theorem Memory.read_nil (a : Nat) : Memory.read [] a = 0 := rfl

theorem Memory.read_of_all_gt {m : List Host.Cell} {a : Nat} (h : m.all (fun c => decide (a < c.1)) = true) :
    Memory.read m a = 0 := by
  induction m with
  | nil => rfl
  | cons c r ih =>
    obtain ⟨k, v⟩ := c
    simp only [List.all_cons, Bool.and_eq_true, decide_eq_true_eq] at h
    have hk : k ≠ a := by omega
    simp only [Memory.read, if_neg hk]
    exact ih h.2

/-- A read gives the byte of the last write to its slot, and every other slot is as before. -/
theorem Memory.read_write {m : List Host.Cell} (hm : Memory.wf m = true) (a x : Nat) (v : Byte) :
    Memory.read (Memory.write m a v) x = if x = a then v else Memory.read m x := by
  induction m with
  | nil =>
    unfold Memory.write
    split
    · next hv => simp [Memory.read, hv]
    · simp only [Memory.read, eq_comm]
  | cons c r ih =>
    obtain ⟨k, w⟩ := c
    simp only [Memory.wf, Bool.and_eq_true, decide_eq_true_eq] at hm
    obtain ⟨⟨⟨_, hw⟩, hall⟩, hr⟩ := hm
    have ih := ih hr
    have hgt : ∀ y, y ≤ k → Memory.read r y = 0 := fun y hy =>
      Memory.read_of_all_gt (List.all_eq_true.mpr fun c hc => by
        have := List.all_eq_true.mp hall c hc
        simp only [decide_eq_true_eq] at this ⊢
        omega)
    unfold Memory.write
    by_cases h1 : a < k
    · by_cases hv : v = Memory.unlisted
      · simp only [if_pos h1, if_pos hv]
        by_cases hx : x = a
        · subst hx
          have : k ≠ x := by omega
          simp [Memory.read, this, hv, hgt x (by omega), Memory.unlisted]
        · simp [hx]
      · simp only [if_pos h1, if_neg hv]
        by_cases hx : x = a
        · simp [Memory.read, hx]
        · have : a ≠ x := fun h => hx h.symm
          simp [Memory.read, hx, this]
    · by_cases h2 : a = k
      · subst h2
        by_cases hv : v = Memory.unlisted
        · simp only [if_neg h1, if_pos hv, if_true]
          by_cases hx : x = a
          · subst hx; simp [hgt x (le_refl _), hv, Memory.unlisted]
          · have : a ≠ x := fun h => hx h.symm
            simp [Memory.read, hx, this]
        · simp only [if_neg h1, if_neg hv, if_true]
          by_cases hx : x = a
          · simp [Memory.read, hx]
          · have : a ≠ x := fun h => hx h.symm
            simp [Memory.read, hx, this]
      · simp only [if_neg h1, if_neg h2, Memory.read, ih]
        by_cases hx : x = a
        · have : k ≠ x := by omega
          simp [hx, Ne.symm h2]
        · simp [hx]

theorem Memory.write_all {m : List Host.Cell} {a b : Nat} {v : Byte} (hab : b < a)
    (h : m.all (fun c => decide (b < c.1)) = true) :
    (Memory.write m a v).all (fun c => decide (b < c.1)) = true := by
  induction m with
  | nil => unfold Memory.write; split <;> simp [hab]
  | cons c r ih =>
    obtain ⟨k, w⟩ := c
    simp only [List.all_cons, Bool.and_eq_true, decide_eq_true_eq] at h
    have ih := ih h.2
    unfold Memory.write
    split_ifs <;> simp only [List.all_cons, Bool.and_eq_true, decide_eq_true_eq, h, ih, hab, and_self]

/-- A write keeps the canonical form. -/
theorem Memory.write_wf {m : List Host.Cell} (hm : Memory.wf m = true) {a : Nat} (ha : a < 2 ^ Config.ctxBits)
    (v : Byte) : Memory.wf (Memory.write m a v) = true := by
  induction m with
  | nil => unfold Memory.write; split <;> simp_all [Memory.wf]
  | cons c r ih =>
    obtain ⟨k, w⟩ := c
    simp only [Memory.wf, Bool.and_eq_true, decide_eq_true_eq] at hm
    obtain ⟨⟨⟨hk, hw⟩, hall⟩, hr⟩ := hm
    have ih := ih hr
    unfold Memory.write
    by_cases h1 : a < k
    · by_cases hv : v = Memory.unlisted
      · simp only [if_pos h1, if_pos hv, Memory.wf, hw, hall, hr, hk, decide_true, Bool.and_self]
      · have : r.all (fun c => decide (a < c.1)) = true := List.all_eq_true.mpr fun c hc => by
          have := List.all_eq_true.mp hall c hc
          simp only [decide_eq_true_eq] at this ⊢
          omega
        simp [Memory.wf, hw, hall, hr, hk, ha, hv, h1, this]
    · by_cases h2 : a = k
      · by_cases hv : v = Memory.unlisted
        · simp only [if_neg h1, if_pos h2, if_pos hv, hr]
        · simp [Memory.wf, hall, hr, hk, hv, h2]
      · have : (Memory.write r a v).all (fun c => decide (k < c.1)) = true :=
          Memory.write_all (by omega) hall
        simp only [if_neg h1, if_neg h2, Memory.wf, hw, this, ih, hk, decide_true, Bool.and_self]

/-- Reset memory and the memory of a fresh stream are canonical. -/
theorem Memory.wf_nil : Memory.wf [] = true := rfl

/-- Two canonical memories that read alike are equal: equal memories are equal data. -/
theorem Memory.ext_of_read {m n : List Host.Cell} (hm : Memory.wf m = true) (hn : Memory.wf n = true)
    (h : ∀ a, Memory.read m a = Memory.read n a) : m = n := by
  induction m generalizing n with
  | nil =>
    cases n with
    | nil => rfl
    | cons d r =>
      obtain ⟨k, v⟩ := d
      simp only [Memory.wf, Bool.and_eq_true, bne_iff_ne] at hn
      have := h k
      simp only [Memory.read, if_true] at this
      exact absurd this.symm hn.1.1.2
  | cons c r ih =>
    obtain ⟨k, v⟩ := c
    simp only [Memory.wf, Bool.and_eq_true, bne_iff_ne] at hm
    obtain ⟨⟨⟨_, hv⟩, hall⟩, hr⟩ := hm
    cases n with
    | nil =>
      have := h k
      simp only [Memory.read, if_true] at this
      exact absurd this hv
    | cons d q =>
      obtain ⟨l, w⟩ := d
      simp only [Memory.wf, Bool.and_eq_true, bne_iff_ne] at hn
      obtain ⟨⟨⟨_, hw⟩, hqall⟩, hq⟩ := hn
      have hgt : ∀ {s : List Host.Cell} {b y : Nat}, s.all (fun c => decide (b < c.1)) = true → y ≤ b →
          Memory.read s y = 0 := fun hs hy => Memory.read_of_all_gt (List.all_eq_true.mpr fun c hc => by
        have := List.all_eq_true.mp hs c hc
        simp only [decide_eq_true_eq] at this ⊢
        omega)
      have hkl : k = l := by
        rcases Nat.lt_trichotomy k l with hlt | heq | hlt
        · have := h k
          have hlk : l ≠ k := by omega
          simp only [Memory.read, if_true, if_neg hlk, hgt hqall (Nat.le_of_lt hlt)] at this
          exact absurd this hv
        · exact heq
        · have := h l
          have hkl : k ≠ l := by omega
          simp only [Memory.read, if_true, if_neg hkl, hgt hall (Nat.le_of_lt hlt)] at this
          exact absurd this.symm hw
      subst hkl
      have hvw : v = w := by simpa [Memory.read] using h k
      subst hvw
      congr 1
      refine ih hr hq fun a => ?_
      by_cases ha : k = a
      · subst ha; rw [hgt hall (le_refl _), hgt hqall (le_refl _)]
      · simpa [Memory.read, ha] using h a

end Sys2Proof.Machine
end

