-- ==== Sys2Proof/Laws/RankTable.lean ====
section
/-! SUPPORT. The rank table: its fields after each operation, and that the list stays a permutation. -/

namespace Sys2Proof.Machine

variable (t : RankTable) (c x : Byte)

@[simp] theorem RankTable.bump_order : (t.bump c).order = t.order := rfl
@[simp] theorem RankTable.bump_anchor : (t.bump c).anchor = t.anchor := rfl
@[simp] theorem RankTable.bump_front : (t.bump c).front = t.front := rfl
@[simp] theorem RankTable.moveToFront_freq : (t.moveToFront c).freq = t.freq := rfl
@[simp] theorem RankTable.moveToFront_anchor : (t.moveToFront c).anchor = t.anchor := rfl
@[simp] theorem RankTable.moveToFront_front : (t.moveToFront c).front = c := rfl
@[simp] theorem RankTable.moveToFront_freqOf : (t.moveToFront c).freqOf x = t.freqOf x := rfl

/-- Only the bumped counter changes. -/
theorem RankTable.freqOf_bump : (t.bump c).freqOf x = if x = c then t.freqOf c + 1 else t.freqOf x := by
  unfold RankTable.bump RankTable.freqOf
  simp only [Vector.getElem_set]
  by_cases h : x = c
  · simp [h]
  · have : c.toNat ≠ x.toNat := fun hn => h (BitVec.eq_of_toNat_eq hn.symm)
    simp [h, this]

/-- The identity list is a permutation (43_rank_tracker.md R165). -/
theorem RankTable.initial_perm : RankTable.initial.Perm := by
  refine ⟨by simp [RankTable.initial], ?_⟩
  unfold RankTable.initial
  refine (List.nodup_map_iff_inj_on List.nodup_range).mpr fun x hx y hy h => ?_
  have := congrArg BitVec.toNat h
  simp at this hx hy
  omega

/-- A list of 256 symbols with none twice holds every symbol. -/
theorem RankTable.Perm.mem {t : RankTable} (h : t.Perm) (c : Byte) : c ∈ t.order := by
  have hcard : t.order.toFinset.card = 256 := by rw [List.toFinset_card_of_nodup h.2, h.1]
  have hun : t.order.toFinset = Finset.univ := by
    apply Finset.eq_univ_of_card
    rw [hcard]
    exact (Fintype.card_congr (BitVec.equivFin (m := 8)).toEquiv).symm ▸ (by simp)
  exact List.mem_toFinset.mp (hun ▸ Finset.mem_univ c)

theorem RankTable.Perm.rankOf_lt {t : RankTable} (h : t.Perm) (c : Byte) : t.rankOf c < 256 :=
  h.1 ▸ List.idxOf_lt_length_iff.mpr (h.mem c)

/-- SymbolAt undoes RankOf. -/
theorem RankTable.Perm.symbolAt_rankOf {t : RankTable} (h : t.Perm) (c : Byte) : t.symbolAt (t.rankOf c) = c := by
  unfold RankTable.symbolAt RankTable.rankOf
  have hlt : t.order.idxOf c < t.order.length := List.idxOf_lt_length_iff.mpr (h.mem c)
  rw [List.getD_eq_getElem _ _ hlt]
  exact List.getElem_idxOf hlt

theorem RankTable.Perm.moveToFront {t : RankTable} (h : t.Perm) (c : Byte) : (t.moveToFront c).Perm := by
  have hp : (c :: t.order.eraseIdx (t.rankOf c)).Perm t.order := by
    unfold RankTable.rankOf
    rw [← List.erase_eq_eraseIdx_of_idxOf rfl]
    exact (List.perm_cons_erase (h.mem c)).symm
  exact ⟨hp.length_eq.trans h.1, hp.nodup_iff.mpr h.2⟩

theorem RankTable.Perm.bump {t : RankTable} (h : t.Perm) (c : Byte) : (t.bump c).Perm := h

/-- What OnMatchedByte can do: the list changes only by a move to the front. -/
theorem RankTable.onMatchedByte_cases :
    t.onMatchedByte c = t.bump c ∨ t.onMatchedByte c = { t.bump c with anchor := c } ∨
    ∃ a, t.onMatchedByte c = { (t.bump c).moveToFront a with anchor := a } := by
  unfold RankTable.onMatchedByte
  dsimp only
  split_ifs
  · exact .inr (.inr ⟨c, rfl⟩)
  · exact .inr (.inl rfl)
  · exact .inr (.inr ⟨t.anchor, rfl⟩)
  · exact .inl rfl

theorem RankTable.Perm.onMatchedByte {t : RankTable} (h : t.Perm) (c : Byte) : (t.onMatchedByte c).Perm := by
  obtain h1 | h1 | ⟨a, h1⟩ := t.onMatchedByte_cases c <;> rw [h1]
  · exact h
  · exact h
  · exact (h.bump c).moveToFront a

theorem RankTable.onLiteralByte_order : (t.onLiteralByte c).order = (t.moveToFront c).order := by
  unfold RankTable.onLiteralByte
  dsimp only
  split_ifs <;> rfl

theorem RankTable.Perm.onLiteralByte {t : RankTable} (h : t.Perm) (c : Byte) : (t.onLiteralByte c).Perm := by
  unfold RankTable.Perm
  rw [RankTable.onLiteralByte_order]
  exact h.moveToFront c

end Sys2Proof.Machine
end

