-- ==== Sys2Proof/Laws/Ops.lean ====
section
/-! SUPPORT. For each shared operation with more than one outcome, everything it can do, guards included. -/

namespace Sys2Proof.Machine

variable (s : State) (c : Byte)

theorem State.writeCtrl_cases (dir : BitVec 1) (mode : BitVec 2) (act : State → State) :
    (s.st = .busy ∧ s.writeCtrl dir mode act = s) ∨
    (s.st ≠ .busy ∧ s.writeCtrl dir mode act = act { s with ctrlDir := dir, ctrlMode := mode }) := by
  unfold State.writeCtrl
  split <;> simp_all

theorem State.atPhase_cases (p : Phase) (f : State → State) :
    (s.At p ∧ s.atPhase p f = f s) ∨ (¬s.At p ∧ s.atPhase p f = s) := by
  unfold State.atPhase
  split
  · exact .inl ⟨‹_›, rfl⟩
  · exact .inr ⟨‹_›, rfl⟩

theorem State.atRawLit_cases (f : State → State) :
    (s.At .dLit ∧ s.amode = .raw ∧ s.atRawLit f = f s) ∨
    (¬(s.At .dLit ∧ s.amode = .raw) ∧ s.atRawLit f = s) := by
  unfold State.atRawLit
  split
  · next h => exact .inl ⟨h.1, h.2, rfl⟩
  · exact .inr ⟨‹_›, rfl⟩

theorem State.atRankLit_cases (f : State → State) :
    (s.At .dLit ∧ s.amode ≠ .raw ∧ s.atRankLit f = f s) ∨
    (¬(s.At .dLit ∧ s.amode ≠ .raw) ∧ s.atRankLit f = s) := by
  unfold State.atRankLit
  split
  · next h => exact .inl ⟨h.1, h.2, rfl⟩
  · exact .inr ⟨‹_›, rfl⟩

/-- START_COMPRESS raises USAGE or begins a stream. -/
theorem State.startCompress_cases :
    (s.ctrlMode ≠ 1 ∧ s.ctrlMode ≠ 2 ∧
      s.startCompress = ({ s.clearPorts 0 with amode := .none } : State).raise .usage) ∨
    ∃ m : AMode, ((s.ctrlMode = 1 ∧ m = .raw) ∨ (s.ctrlMode = 2 ∧ m = .rank)) ∧
      s.startCompress = { (s.clearPorts 0).freshStream with
        amode := m, phase := .cBody
        outq := [Config.magic 0, Config.magic 1, Config.magic 2, m.byte] } := by
  unfold State.startCompress
  dsimp only
  split
  · next h => exact .inl ⟨h.1, h.2, rfl⟩
  · next h =>
    by_cases h1 : s.ctrlMode = 1
    · refine .inr ⟨.raw, .inl ⟨h1, rfl⟩, ?_⟩
      rw [if_pos h1]; rfl
    · have h2 : s.ctrlMode = 2 := by by_contra h2; exact h ⟨h1, h2⟩
      refine .inr ⟨.rank, .inr ⟨h2, rfl⟩, ?_⟩
      rw [if_neg h1]; rfl

/-- ENC_BYTE fails, matches or misses. -/
theorem State.encByte_cases :
    (s.predict = c ∧ s.run.toNat = 2 ^ Config.runW - 1 ∧ s.encByte c = s.countIn.raise .runCounterOverflow) ∨
    ((s.predict = c → s.run.toNat ≠ 2 ^ Config.runW - 1) ∧ s.freqOverflows c ∧
      s.encByte c = s.countIn.raise .freqOverflow) ∨
    (s.predict = c ∧ s.run.toNat ≠ 2 ^ Config.runW - 1 ∧ ¬s.freqOverflows c ∧
      s.encByte c = { s with
        inCount := s.inCount + 1, run := s.run + 1, ctx := nextCtx s.ctx c
        rank := if s.amode = .rank then s.rank.onMatchedByte c else s.rank }) ∨
    (s.predict ≠ c ∧ ¬s.freqOverflows c ∧
      s.encByte c = ((s.countIn.runFlush.litEncode c).update c).advance c) := by
  unfold State.encByte
  dsimp only
  by_cases hp : s.predict = c
  · rw [if_pos (show s.countIn.predict = c from hp)]
    by_cases hr : s.run.toNat = 2 ^ Config.runW - 1
    · rw [if_pos (show s.countIn.run.toNat = _ from hr)]
      exact .inl ⟨hp, hr, rfl⟩
    · rw [if_neg (show ¬s.countIn.run.toNat = _ from hr)]
      by_cases hf : s.freqOverflows c
      · rw [if_pos (show s.countIn.freqOverflows c from hf)]
        exact .inr (.inl ⟨fun _ => hr, hf, rfl⟩)
      · rw [if_neg (show ¬s.countIn.freqOverflows c from hf)]
        refine .inr (.inr (.inl ⟨hp, hr, hf, ?_⟩))
        unfold State.trackMatch State.countIn State.advance
        dsimp only
        split <;> rfl
  · rw [if_neg (show ¬s.countIn.predict = c from hp)]
    by_cases hf : s.freqOverflows c
    · rw [if_pos (show s.countIn.freqOverflows c from hf)]
      exact .inr (.inl ⟨fun h => absurd h hp, hf, rfl⟩)
    · rw [if_neg (show ¬s.countIn.freqOverflows c from hf)]
      exact .inr (.inr (.inr ⟨hp, hf, rfl⟩))

/-- RUN_REPLAY_BYTE fails or gives back the prediction. -/
theorem State.replayByte_cases :
    (s.freqOverflows s.predict ∧ s.replayByte = s.raise .freqOverflow) ∨
    (¬s.freqOverflows s.predict ∧ s.replayByte = { s with
      outq := s.outq ++ [s.predict], ctx := nextCtx s.ctx s.predict, rem := s.rem - 1
      rank := if s.amode = .rank then s.rank.onMatchedByte s.predict else s.rank
      phase := if s.rem - 1 = 0 then .dLit else s.phase }) := by
  unfold State.replayByte
  dsimp only
  by_cases hf : s.freqOverflows s.predict
  · rw [if_pos hf]; exact .inl ⟨hf, rfl⟩
  · rw [if_neg hf]
    refine .inr ⟨hf, ?_⟩
    unfold State.trackMatch State.emit State.advance
    dsimp only
    split <;> split <;> rfl

/-- A literal's effect: one emitted byte, one slot, one step of the context. -/
theorem State.literal_eq :
    s.literal c = { s with
      outq := s.outq ++ [c], cb := Memory.write s.cb s.ctx.toNat c, ctx := nextCtx s.ctx c, phase := .dFlag } := rfl

/-- A rank literal fails or gives the symbol at its rank. -/
theorem State.rankLiteral_cases (n : Nat) :
    (s.rank.freqFull (s.rank.symbolAt n) ∧ s.rankLiteral n = s.raise .freqOverflow) ∨
    (¬s.rank.freqFull (s.rank.symbolAt n) ∧
      s.rankLiteral n =
        State.literal (s.rank.symbolAt n) { s with rank := s.rank.onLiteralByte (s.rank.symbolAt n) }) := by
  unfold State.rankLiteral
  dsimp only
  split
  · exact .inl ⟨‹_›, rfl⟩
  · exact .inr ⟨‹_›, rfl⟩

/-- PutBit fills one more bit of the byte, or completes the byte and queues it. -/
theorem State.putBit_cases (b : Bool) :
    (∃ h : s.nacc.val + 1 < 8, s.putBit b = { s with
      acc := setBit s.acc (packIndex Config.packOrder s.nacc.val) b, nacc := ⟨s.nacc.val + 1, h⟩ }) ∨
    (s.nacc.val = 7 ∧ s.putBit b = { s with
      outq := s.outq ++ [setBit s.acc (packIndex Config.packOrder s.nacc.val) b], acc := 0, nacc := 0 }) := by
  unfold State.putBit
  dsimp only
  split
  · exact .inl ⟨‹_›, rfl⟩
  · exact .inr ⟨by omega, rfl⟩

/-- out_valid and out_data say the same of the queue (45_host_interface.md R223). -/
theorem State.outValid_eq : s.outValid = s.outData.isSome := by
  unfold State.outValid State.outData
  cases s.outq <;> rfl

@[simp] theorem State.outData_cons (b : Byte) (q : List Byte) :
    ({ s with outq := b :: q } : State).outData = some b := rfl
@[simp] theorem State.outData_nil : ({ s with outq := [] } : State).outData = none := rfl

/-- OUT hands over the offered byte, or waits. -/
theorem execOut_cases :
    (∃ b, s.outData = some b ∧
      execOut s = .next { s with outq := s.outq.tail, outCount := s.outCount + 1, taken := b }) ∨
    (s.outData = none ∧ execOut s = .next (s.hold .take)) := by
  unfold execOut State.outData
  cases s.outq with
  | nil => exact .inr ⟨rfl, rfl⟩
  | cons b q => exact .inl ⟨b, rfl, rfl⟩

/-- A token is fetched whole, or its bits are kept and the block waits, or (never from a decoder of tokens) nothing. -/
theorem State.fetchToken_cases :
    (∃ i rest, s.decodeToken (s.tok ++ s.unread) = .got i rest ∧
      s.fetchToken = .instr i { s with tok := [], nleft := Fin.ofNat 9 rest.length }) ∨
    (s.decodeToken (s.tok ++ s.unread) = .wait ∧
      s.fetchToken = .moved { s with tok := s.tok ++ s.unread, nleft := 0 }) ∨
    (∃ rest, s.decodeToken (s.tok ++ s.unread) = .bad rest ∧ s.fetchToken = .moved s) := by
  unfold State.fetchToken
  cases h : s.decodeToken (s.tok ++ s.unread) with
  | got i rest => exact .inl ⟨i, rest, rfl, rfl⟩
  | wait => exact .inr (.inl ⟨rfl, rfl⟩)
  | bad rest => exact .inr (.inr ⟨rest, rfl, rfl⟩)

end Sys2Proof.Machine
end

