-- ==== Sys2Proof/Laws/PerInstr.lean ====
section
/-! SUPPORT. One statement about every constructor of Instr: the code the encoder gives has the number of bits its row of
spec/opcode_table.json shows. -/

namespace Sys2Proof.Laws.EncodedWidth

/-- The bits of a code: of the data word of a CSR write, the address of a read, a beat, a header byte, or a token. -/
def codeWidth : Code → Nat
  | .host (.write _ _) => 32
  | .host (.read _) => 8
  | .host (.beat _) => 9
  | .host .take => 8
  | .host .rst => 0
  | .headerMagic _ => 8
  | .headerMode _ => 8
  | .flag bits => bits.length
  | .raw bits => bits.length
  | .rank bits => bits.length
  | .padding bits => bits.length

/-- The bits the table's row shows (HDR_MAGIC: one of its three bytes). -/
def rowWidth : Instr → Nat
  | .cfg _ _ => 32
  | .startCRaw => 32
  | .startCRank => 32
  | .startCBad0 => 32
  | .startCBad3 => 32
  | .startD _ => 32
  | .rdCtrl => 8
  | .rdStatus => 8
  | .rdInCount => 8
  | .rdOutCount => 8
  | .rdUnmapped _ => 8
  | .wrStatus _ => 32
  | .wrInCount _ => 32
  | .wrOutCount _ => 32
  | .wrUnmapped _ _ => 32
  | .inData _ => 9
  | .inEnd _ => 9
  | .out => 8
  | .hdrMagic _ => 8
  | .hdrModeRaw => 8
  | .hdrModeRank => 8
  | .hdrModeBad _ => 8
  | .f0 => 1
  | .f1K0 => 2
  | .f1K1 _ => 4
  | .f1K2 _ => 6
  | .f1K3 _ => 8
  | .f1K4 _ => 10
  | .f1K5 _ => 12
  | .f1K6 _ => 14
  | .f1K7 _ => 16
  | .f1K8 _ => 18
  | .f1K9 _ => 20
  | .f1K10 _ => 22
  | .f1K11 _ => 24
  | .f1K12 _ => 26
  | .f1K13 _ => 28
  | .f1K14 _ => 30
  | .f1K15 _ => 32
  | .f1K16 _ => 34
  | .f1K17 _ => 36
  | .f1K18 _ => 38
  | .f1K19 _ => 40
  | .f1K20 _ => 42
  | .f1K21 _ => 44
  | .f1K22 _ => 46
  | .f1K23 _ => 48
  | .f1K24 _ => 50
  | .f1K25 _ => 52
  | .f1K26 _ => 54
  | .f1K27 _ => 56
  | .f1K28 _ => 58
  | .f1K29 _ => 60
  | .f1K30 _ => 62
  | .f1K31 _ => 64
  | .runOvf => 33
  | .lit8 _ => 8
  | .litFF => 9
  | .eosRaw => 9
  | .rlitK0 _ => 4
  | .rlitK1 _ => 6
  | .rlitK2 _ => 8
  | .rlitK3 _ => 10
  | .rlitK4 _ => 12
  | .rlitK5 _ => 14
  | .eosRank => 14
  | .badRankK5 _ => 14
  | .badRankPrefix => 6
  | .pad n => n.val

/-- The encoder keeps to the row's width. -/
def Statement (i : Instr) : Prop := codeWidth (encode i) = rowWidth i

/-- A flag token of class k has 2 + 2 k bits. -/
theorem f1_width (k s : Nat) : codeWidth (.flag (f1Bits k s)) = 2 + 2 * k := by
  simp [codeWidth, f1Bits]; omega

/-- A rank code of class k has 4 + 2 k bits. -/
theorem rlit_width (k s : Nat) : codeWidth (.rank (rlitBits k s)) = 4 + 2 * k := by
  simp [codeWidth, rlitBits]; omega

theorem cfg (dir : BitVec 1) (mode : BitVec 2) : Statement (.cfg dir mode) := rfl
theorem startCRaw : Statement (.startCRaw) := rfl
theorem startCRank : Statement (.startCRank) := rfl
theorem startCBad0 : Statement (.startCBad0) := rfl
theorem startCBad3 : Statement (.startCBad3) := rfl
theorem startD (mode : BitVec 2) : Statement (.startD mode) := rfl
theorem rdCtrl : Statement (.rdCtrl) := rfl
theorem rdStatus : Statement (.rdStatus) := rfl
theorem rdInCount : Statement (.rdInCount) := rfl
theorem rdOutCount : Statement (.rdOutCount) := rfl
theorem rdUnmapped (addr : BitVec 8) : Statement (.rdUnmapped addr) := rfl
theorem wrStatus (wdata : Word) : Statement (.wrStatus wdata) := rfl
theorem wrInCount (wdata : Word) : Statement (.wrInCount wdata) := rfl
theorem wrOutCount (wdata : Word) : Statement (.wrOutCount wdata) := rfl
theorem wrUnmapped (addr : BitVec 8) (wdata : Word) : Statement (.wrUnmapped addr wdata) := rfl
theorem inData (d : Byte) : Statement (.inData d) := rfl
theorem inEnd (x : Byte) : Statement (.inEnd x) := rfl
theorem out : Statement (.out) := rfl
theorem hdrMagic (b : Byte) : Statement (.hdrMagic b) := rfl
theorem hdrModeRaw : Statement (.hdrModeRaw) := rfl
theorem hdrModeRank : Statement (.hdrModeRank) := rfl
theorem hdrModeBad (b : Byte) : Statement (.hdrModeBad b) := rfl
theorem f0 : Statement (.f0) := rfl
theorem f1K0 : Statement (.f1K0) := f1_width 0 _
theorem f1K1 (n : BitVec 1) : Statement (.f1K1 n) := f1_width 1 _
theorem f1K2 (n : BitVec 2) : Statement (.f1K2 n) := f1_width 2 _
theorem f1K3 (n : BitVec 3) : Statement (.f1K3 n) := f1_width 3 _
theorem f1K4 (n : BitVec 4) : Statement (.f1K4 n) := f1_width 4 _
theorem f1K5 (n : BitVec 5) : Statement (.f1K5 n) := f1_width 5 _
theorem f1K6 (n : BitVec 6) : Statement (.f1K6 n) := f1_width 6 _
theorem f1K7 (n : BitVec 7) : Statement (.f1K7 n) := f1_width 7 _
theorem f1K8 (n : BitVec 8) : Statement (.f1K8 n) := f1_width 8 _
theorem f1K9 (n : BitVec 9) : Statement (.f1K9 n) := f1_width 9 _
theorem f1K10 (n : BitVec 10) : Statement (.f1K10 n) := f1_width 10 _
theorem f1K11 (n : BitVec 11) : Statement (.f1K11 n) := f1_width 11 _
theorem f1K12 (n : BitVec 12) : Statement (.f1K12 n) := f1_width 12 _
theorem f1K13 (n : BitVec 13) : Statement (.f1K13 n) := f1_width 13 _
theorem f1K14 (n : BitVec 14) : Statement (.f1K14 n) := f1_width 14 _
theorem f1K15 (n : BitVec 15) : Statement (.f1K15 n) := f1_width 15 _
theorem f1K16 (n : BitVec 16) : Statement (.f1K16 n) := f1_width 16 _
theorem f1K17 (n : BitVec 17) : Statement (.f1K17 n) := f1_width 17 _
theorem f1K18 (n : BitVec 18) : Statement (.f1K18 n) := f1_width 18 _
theorem f1K19 (n : BitVec 19) : Statement (.f1K19 n) := f1_width 19 _
theorem f1K20 (n : BitVec 20) : Statement (.f1K20 n) := f1_width 20 _
theorem f1K21 (n : BitVec 21) : Statement (.f1K21 n) := f1_width 21 _
theorem f1K22 (n : BitVec 22) : Statement (.f1K22 n) := f1_width 22 _
theorem f1K23 (n : BitVec 23) : Statement (.f1K23 n) := f1_width 23 _
theorem f1K24 (n : BitVec 24) : Statement (.f1K24 n) := f1_width 24 _
theorem f1K25 (n : BitVec 25) : Statement (.f1K25 n) := f1_width 25 _
theorem f1K26 (n : BitVec 26) : Statement (.f1K26 n) := f1_width 26 _
theorem f1K27 (n : BitVec 27) : Statement (.f1K27 n) := f1_width 27 _
theorem f1K28 (n : BitVec 28) : Statement (.f1K28 n) := f1_width 28 _
theorem f1K29 (n : BitVec 29) : Statement (.f1K29 n) := f1_width 29 _
theorem f1K30 (n : BitVec 30) : Statement (.f1K30 n) := f1_width 30 _
theorem f1K31 (n : BitVec 31) : Statement (.f1K31 n) := f1_width 31 _
theorem runOvf : Statement (.runOvf) := rfl
theorem lit8 (b : Byte) : Statement (.lit8 b) := bitsOfNat_length 8 _
theorem litFF : Statement (.litFF) := rfl
theorem eosRaw : Statement (.eosRaw) := rfl
theorem rlitK0 (n : BitVec 3) : Statement (.rlitK0 n) := rlit_width 0 _
theorem rlitK1 (n : BitVec 4) : Statement (.rlitK1 n) := rlit_width 1 _
theorem rlitK2 (n : BitVec 5) : Statement (.rlitK2 n) := rlit_width 2 _
theorem rlitK3 (n : BitVec 6) : Statement (.rlitK3 n) := rlit_width 3 _
theorem rlitK4 (n : BitVec 7) : Statement (.rlitK4 n) := rlit_width 4 _
theorem rlitK5 (n : BitVec 3) : Statement (.rlitK5 n) := rlit_width 5 _
theorem eosRank : Statement (.eosRank) := rlit_width 5 _
theorem badRankK5 (n : BitVec 8) : Statement (.badRankK5 n) := rlit_width 5 _
theorem badRankPrefix : Statement (.badRankPrefix) := rfl
theorem pad (n : Fin 8) : Statement (.pad n) := List.length_replicate ..

end Sys2Proof.Laws.EncodedWidth
end

