-- ==== Sys2Proof/Laws/Step.lean ====
section
/-! SUPPORT. Everything one step can be, and what using a turn leaves. -/

namespace Sys2Proof.Machine

/-- Using a turn changes `turns` alone. -/
theorem State.useTurn_eq (s : State) : s.useTurn = { s with turns := s.useTurn.turns } := by
  unfold State.useTurn; split <;> rfl

/-- A step is: nothing; the reset input; a host operation; a fetched token or header byte; or a step of the block that
is no row of the table. -/
theorem step_cases {s t : State} (h : step s = .next t) :
    (s.nextAgent = .block ∧ s.useTurn.blockEnabled = false ∧ t = s.useTurn) ∨
    (s.nextAgent = .block ∧ s.useTurn.blockEnabled = true ∧
      ((∃ i u, s.useTurn.fetch = .instr i u ∧ exec i u = .next t) ∨ s.useTurn.fetch = .moved t)) ∨
    (s.nextAgent = .host ∧
      ((s.useTurn.host = [] ∧ t = s.useTurn) ∨
       ∃ op rest, s.useTurn.host = op :: rest ∧
        ((∃ i, decodeHost op = some i ∧ exec i { s.useTurn with host := rest } = .next t) ∨
         (decodeHost op = none ∧ t = ({ s.useTurn with host := rest } : State).applyReset)))) := by
  unfold step at h
  split at h
  · next ha =>
    unfold blockStep at h
    split at h
    · next he =>
      refine .inr (.inl ⟨ha, he, ?_⟩)
      split at h
      · next i u hf => exact .inl ⟨i, u, hf, h⟩
      · next u hf => cases h; exact .inr hf
    · next he => cases h; exact .inl ⟨ha, by simpa using he, rfl⟩
  · next ha =>
    unfold hostStep at h
    refine .inr (.inr ⟨ha, ?_⟩)
    split at h
    · next hh => cases h; exact .inl ⟨hh, rfl⟩
    · next op rest hh =>
      refine .inr ⟨op, rest, hh, ?_⟩
      split at h
      · next i hd => exact .inl ⟨i, hd, h⟩
      · next hd => cases h; exact .inr ⟨hd, rfl⟩

/-- Only the reset input is no row of the table. -/
theorem decodeHost_eq_none {op : HostOp} (h : decodeHost op = none) : op = .rst := by
  cases op <;> first | rfl | cases h

end Sys2Proof.Machine
end

