-- ==== Sys2Proof/Tests/Slice0.lean ====
section
/-! SUPPORT. Tests of one step each, and for every obligation with hypotheses a concrete case that meets them. The
expected words are written from the encodings of spec 30_encoding.md and opcode_table.json; the expected results from
the vectors of spec 95_test_vectors.md, named V-…, or worked out by hand from the rules named. -/

namespace Sys2Proof.Tests

open Sys2Proof.Machine Sys2Proof.Claims

/-! ### Ill-formed terms (one for each check) -/

theorem test_illformed_rdUnmapped : (Instr.rdUnmapped 0x0F).wellFormed = false := by decide
theorem test_illformed_wrUnmapped : (Instr.wrUnmapped 0x0F 1).wellFormed = false := by decide
theorem test_illformed_hdrModeBad :
    (Instr.hdrModeBad 0x01).wellFormed = false ∧ (Instr.hdrModeBad 0x02).wellFormed = false := by decide
theorem test_illformed_lit8 : (Instr.lit8 0xFF).wellFormed = false := by decide
theorem test_illformed_badRankK5 : (Instr.badRankK5 8).wellFormed = false := by decide

/-! ### Decoding: every constructor's word, bit by bit -/

/-- CTRL words (R80): MODE is bits 3:2, DIR bit 1, START bit 0; bits 31:4 and the low address bits do not count. -/
theorem test_decode_ctrl :
    decode (.host (.write 0x00 0b1100)) = .ok (.cfg 0 3) ∧ decode (.host (.write 0x00 0b0110)) = .ok (.cfg 1 1) ∧
    decode (.host (.write 0x03 0xFFFFFFF5)) = .ok .startCRaw ∧ decode (.host (.write 0x00 0b1001)) = .ok .startCRank ∧
    decode (.host (.write 0x00 0b0001)) = .ok .startCBad0 ∧ decode (.host (.write 0x00 0b1101)) = .ok .startCBad3 ∧
    decode (.host (.write 0x00 0b0011)) = .ok (.startD 0) ∧ decode (.host (.write 0x00 0b1011)) = .ok (.startD 2) :=
  ⟨rfl, rfl, rfl, rfl, rfl, rfl, rfl, rfl⟩

/-- Register accesses (20_memory.md R63; V-H8, V-H9). -/
theorem test_decode_registers :
    decode (.host (.read 0x00)) = .ok .rdCtrl ∧ decode (.host (.read 0x05)) = .ok .rdStatus ∧
    decode (.host (.read 0x08)) = .ok .rdInCount ∧ decode (.host (.read 0x0C)) = .ok .rdOutCount ∧
    decode (.host (.read 0x10)) = .ok (.rdUnmapped 0x10) ∧ decode (.host (.read 0xFC)) = .ok (.rdUnmapped 0xFC) ∧
    decode (.host (.write 0x04 7)) = .ok (.wrStatus 7) ∧ decode (.host (.write 0x0A 7)) = .ok (.wrInCount 7) ∧
    decode (.host (.write 0x0F 7)) = .ok (.wrOutCount 7) ∧ decode (.host (.write 0x10 7)) = .ok (.wrUnmapped 0x10 7) :=
  ⟨rfl, rfl, rfl, rfl, rfl, rfl, rfl, rfl, rfl, rfl⟩

/-- Beats (R81): in_end is bit 8. The reset input is no row. -/
theorem test_decode_beats :
    decode (.host (.beat 0b001000001)) = .ok (.inData 0x41) ∧ decode (.host (.beat 0b011111111)) = .ok (.inData 0xFF) ∧
    decode (.host (.beat 0b100000010)) = .ok (.inEnd 0x02) ∧ decode (.host .take) = .ok .out ∧
    decode (.host .rst) = .error .resetInput := ⟨rfl, rfl, rfl, rfl, rfl⟩

/-- Header bytes (R71). -/
theorem test_decode_header :
    decode (.headerMagic 0x4C) = .ok (.hdrMagic 0x4C) ∧ decode (.headerMode 0b00000001) = .ok .hdrModeRaw ∧
    decode (.headerMode 0b00000010) = .ok .hdrModeRank ∧ decode (.headerMode 0x00) = .ok (.hdrModeBad 0) ∧
    decode (.headerMode 0x03) = .ok (.hdrModeBad 3) := ⟨rfl, rfl, rfl, rfl, rfl⟩

/-- Flag tokens of classes 0 to 10 (R73, R75). -/
theorem test_decode_flag_short :
    decode (.flag (bitsOfNat 1 0b0)) = .ok .f0 ∧
    decode (.flag (bitsOfNat 2 0b10)) = .ok .f1K0 ∧
    decode (.flag (bitsOfNat 4 0b1101)) = .ok (.f1K1 0b1) ∧
    decode (.flag (bitsOfNat 6 0b111001)) = .ok (.f1K2 0b01) ∧
    decode (.flag (bitsOfNat 8 0b11110011)) = .ok (.f1K3 0b011) ∧
    decode (.flag (bitsOfNat 10 0b1111100111)) = .ok (.f1K4 0b0111) ∧
    decode (.flag (bitsOfNat 12 0b111111001101)) = .ok (.f1K5 0b01101) ∧
    decode (.flag (bitsOfNat 14 0b11111110011011)) = .ok (.f1K6 0b011011) ∧
    decode (.flag (bitsOfNat 16 0b1111111100110101)) = .ok (.f1K7 0b0110101) ∧
    decode (.flag (bitsOfNat 18 0b111111111001101001)) = .ok (.f1K8 0b01101001) ∧
    decode (.flag (bitsOfNat 20 0b11111111110011010011)) = .ok (.f1K9 0b011010011) ∧
    decode (.flag (bitsOfNat 22 0b1111111111100110100101)) = .ok (.f1K10 0b0110100101) :=
  ⟨rfl, rfl, rfl, rfl, rfl, rfl, rfl, rfl, rfl, rfl, rfl, rfl⟩

/-- Flag tokens of classes 11 to 20 (R73, R75). -/
theorem test_decode_flag_middle :
    decode (.flag (bitsOfNat 24 0b111111111111001101001011)) = .ok (.f1K11 0b01101001011) ∧
    decode (.flag (bitsOfNat 26 0b11111111111110011010010111)) =
      .ok (.f1K12 0b011010010111) ∧
    decode (.flag (bitsOfNat 28 0b1111111111111100110100101101)) =
      .ok (.f1K13 0b0110100101101) ∧
    decode (.flag (bitsOfNat 30 0b111111111111111001101001011011)) =
      .ok (.f1K14 0b01101001011011) ∧
    decode (.flag (bitsOfNat 32 0b11111111111111110011010010110111)) =
      .ok (.f1K15 0b011010010110111) ∧
    decode (.flag (bitsOfNat 34 0b1111111111111111100110100101101111)) =
      .ok (.f1K16 0b0110100101101111) ∧
    decode (.flag (bitsOfNat 36 0b111111111111111111001101001011011101)) =
      .ok (.f1K17 0b01101001011011101) ∧
    decode (.flag (bitsOfNat 38 0b11111111111111111110011010010110111011)) =
      .ok (.f1K18 0b011010010110111011) ∧
    decode (.flag (bitsOfNat 40 0b1111111111111111111100110100101101110101)) =
      .ok (.f1K19 0b0110100101101110101) ∧
    decode (.flag (bitsOfNat 42 0b111111111111111111111001101001011011101001)) =
      .ok (.f1K20 0b01101001011011101001) :=
  ⟨rfl, rfl, rfl, rfl, rfl, rfl, rfl, rfl, rfl, rfl⟩

/-- Flag tokens of classes 21 to 31, and a prefix of 32 ones (R73, R75). -/
theorem test_decode_flag_long :
    decode (.flag (bitsOfNat 44 0b11111111111111111111110011010010110111010011)) =
      .ok (.f1K21 0b011010010110111010011) ∧
    decode (.flag (bitsOfNat 46 0b1111111111111111111111100110100101101110100101)) =
      .ok (.f1K22 0b0110100101101110100101) ∧
    decode (.flag (bitsOfNat 48 0b111111111111111111111111001101001011011101001011)) =
      .ok (.f1K23 0b01101001011011101001011) ∧
    decode (.flag (bitsOfNat 50 0b11111111111111111111111110011010010110111010010111)) =
      .ok (.f1K24 0b011010010110111010010111) ∧
    decode (.flag (bitsOfNat 52 0b1111111111111111111111111100110100101101110100101101)) =
      .ok (.f1K25 0b0110100101101110100101101) ∧
    decode (.flag (bitsOfNat 54 0b111111111111111111111111111001101001011011101001011011)) =
      .ok (.f1K26 0b01101001011011101001011011) ∧
    decode (.flag (bitsOfNat 56 0b11111111111111111111111111110011010010110111010010110111)) =
      .ok (.f1K27 0b011010010110111010010110111) ∧
    decode (.flag (bitsOfNat 58 0b1111111111111111111111111111100110100101101110100101101111)) =
      .ok (.f1K28 0b0110100101101110100101101111) ∧
    decode (.flag (bitsOfNat 60 0b111111111111111111111111111111001101001011011101001011011101)) =
      .ok (.f1K29 0b01101001011011101001011011101) ∧
    decode (.flag (bitsOfNat 62 0b11111111111111111111111111111110011010010110111010010110111011)) =
      .ok (.f1K30 0b011010010110111010010110111011) ∧
    decode (.flag (bitsOfNat 64 0b1111111111111111111111111111111100110100101101110100101101110101)) =
      .ok (.f1K31 0b0110100101101110100101101110101) ∧
    decode (.flag (bitsOfNat 33 0b111111111111111111111111111111111)) =
      .ok .runOvf :=
  ⟨rfl, rfl, rfl, rfl, rfl, rfl, rfl, rfl, rfl, rfl, rfl, rfl⟩

/-- Raw literals and end marker (R76; V-L5 to V-L7). -/
theorem test_decode_raw :
    decode (.raw (bitsOfNat 8 0b01000001)) = .ok (.lit8 0b01000001) ∧
    decode (.raw (bitsOfNat 8 0b11111110)) = .ok (.lit8 0b11111110) ∧
    decode (.raw (bitsOfNat 9 0b111111110)) = .ok .litFF ∧
    decode (.raw (bitsOfNat 9 0b111111111)) = .ok .eosRaw :=
  ⟨rfl, rfl, rfl, rfl⟩

/-- Rank literals, end marker and codes past it (R77, R75). -/
theorem test_decode_rank :
    decode (.rank (bitsOfNat 4 0b0011)) = .ok (.rlitK0 0b011) ∧
    decode (.rank (bitsOfNat 6 0b100001)) = .ok (.rlitK1 0b0001) ∧
    decode (.rank (bitsOfNat 8 0b11001101)) = .ok (.rlitK2 0b01101) ∧
    decode (.rank (bitsOfNat 10 0b1110001001)) = .ok (.rlitK3 0b001001) ∧
    decode (.rank (bitsOfNat 12 0b111101111110)) = .ok (.rlitK4 0b1111110) ∧
    decode (.rank (bitsOfNat 14 0b11111000000111)) = .ok (.rlitK5 0b111) ∧
    decode (.rank (bitsOfNat 14 0b11111000001000)) = .ok .eosRank ∧
    decode (.rank (bitsOfNat 14 0b11111000001001)) = .ok (.badRankK5 9) ∧
    decode (.rank (bitsOfNat 14 0b11111011111111)) = .ok (.badRankK5 0xFF) ∧
    decode (.rank (bitsOfNat 6 0b111111)) = .ok .badRankPrefix :=
  ⟨rfl, rfl, rfl, rfl, rfl, rfl, rfl, rfl, rfl, rfl⟩

/-- Padding (R56): any bits, seven at most. A token cut short, or followed by more, is no single token. -/
theorem test_decode_rest :
    decode (.padding []) = .ok (.pad 0) ∧ decode (.padding (bitsOfNat 7 0b0100110)) = .ok (.pad 7) ∧
    decode (.padding (bitsOfNat 8 0)) = .error .padTooLong ∧ decode (.flag (bitsOfNat 5 0b11100)) = .error .incomplete ∧
    decode (.raw (bitsOfNat 8 0xFF)) = .error .incomplete ∧ decode (.flag (bitsOfNat 2 0b01)) = .error .trailingBits :=
  ⟨rfl, rfl, rfl, rfl, rfl, rfl⟩

/-- Table words as opcode_table.json numbers them: START_C_RANK, IN, RLIT_K2, F1_K3, EOS_RANK, RUN_OVF, HDR_MAGIC. -/
theorem test_decodeTableWord :
    decodeTableWord 32 0x9 = some .startCRank ∧ decodeTableWord 32 0xD = some .startCBad3 ∧ decodeTableWord 16 0x041 = some (.inData 0x41) ∧
    decodeTableWord 8 0b11000001 = some (.rlitK2 1) ∧ decodeTableWord 8 0b11110101 = some (.f1K3 5) ∧
    decodeTableWord 16 0b11111000001000 = some .eosRank ∧ decodeTableWord 40 0x1FFFFFFFF = some .runOvf ∧
    decodeTableWord 24 0 = some (.hdrMagic 0) ∧ decodeTableWord 8 0x100 = none :=
  ⟨rfl, rfl, rfl, rfl, rfl, rfl, rfl, rfl, rfl⟩
/-! ### Helpers -/

/-- A stream at phase p in mode m, its tables as after START. -/
def mid (p : Phase) (m : AMode) : State :=
  { State.reset with st := .busy, phase := p, amode := m, adir := if p = .cBody ∨ p = .cFinish then 0 else 1 }

/-- A rank table whose counters are all at their limit. -/
def fullRank : RankTable := { RankTable.initial with freq := Vector.replicate 256 0xFFFFFFFF#32 }

/-- Fields of the next state. -/
def after {α : Type} (r : Res) (f : State → α) : Option α :=
  match r with
  | .next t => some (f t)
  | .fault _ => none
  | .refused _ => none

/-! ### Registers and commands -/

/-- V-H1. -/
theorem test_reset_registers :
    State.reset.statusReg = 0 ∧ State.reset.ctrlReg = 0 ∧ State.reset.inCount = 0 ∧ State.reset.outCount = 0 := by decide
/-- V-H6. -/
theorem test_cfg : after (exec (.cfg 0 3) .reset) (fun t => (t.ctrlReg, t.statusReg)) = some (0xC, 0) := by decide
/-- V-H4. -/
theorem test_startCRaw_ignored :
    after (exec .startCRaw { mid .cBody .rank with ctrlMode := 2 }) (fun t => (t.ctrlReg, t.statusReg)) =
      some (0x8, 0x201) := by decide
/-- P1. -/
theorem test_startCRaw : after (exec .startCRaw .reset) State.statusReg = some 0x101 := by decide
/-- V-H2, V-H3. -/
theorem test_startCRank : after (exec .startCRank .reset) (fun t => (t.ctrlReg, t.statusReg)) = some (0x8, 0x201) := by
  decide
/-- V-E14. -/
theorem test_startCBad0 :
    after (exec .startCBad0 { State.reset with inCount := 5 }) (fun t => (t.statusReg, t.inCount, t.outq)) =
      some (0x13, 0, []) := by decide
/-- V-E15. -/
theorem test_startCBad3 : after (exec .startCBad3 .reset) (fun t => (t.ctrlReg, t.statusReg)) = some (0xC, 0x13) := by
  decide
/-- V-H5, P5: from ERROR, with MODE 2 in the word. -/
theorem test_startD :
    after (exec (.startD 2) { State.reset with st := .error, err := .format, run := 9 })
      (fun t => (t.ctrlReg, t.statusReg, t.run)) = some (0xA, 0x401, 0) := by decide
/-- V-H11. -/
theorem test_rdStatus :
    after (exec .rdStatus { State.reset with st := .done, amode := .raw, outCount := 6 }) State.csrRdata =
      some 0x102 := by decide
theorem test_rdCtrl : after (exec .rdCtrl { State.reset with ctrlMode := 1, ctrlDir := 1 }) State.csrRdata = some 6 := by
  decide
/-- V-H7. -/
theorem test_wrStatus : after (exec (.wrStatus 0xFFFFFFFF) (mid .dHdr .none)) State.statusReg = some 0x401 := by decide

/-! ### Beats -/

/-- V-R6: a match is counted and emits nothing. -/
theorem test_inData_match :
    after (exec (.inData 0) { mid .cBody .raw with run := 4 }) (fun t => (t.run, t.inCount, t.outq, t.nacc)) =
      some (5, 1, [], 0) := by decide
/-- V-C10, its first byte: bits 0, 1110001001. -/
theorem test_inData_miss :
    after (exec (.inData 0x41) (mid .cBody .rank)) (fun t => (t.outq, t.acc, t.nacc, t.ctx)) =
      some ([0x71], 0x20, 3, 0x41) := by decide
/-- V-C3: bits 10, 111111111, 00000. -/
theorem test_inEnd :
    after (exec (.inEnd 0) { mid .cBody .raw with run := 1 }) (fun t => (t.outq, t.phase)) =
      some ([0xBF, 0xE0], .cFinish) := by decide
/-- V-E7: END inside a token. -/
theorem test_inEnd_early :
    after (exec (.inEnd 0) { mid .dLit .raw with inCount := 5, tok := [true] }) (fun t => (t.statusReg, t.inCount, t.tok)) =
      some (0x533, 5, []) := by decide
/-- R223, its example: the byte on offer after START is MAGIC[0]. -/
theorem test_outData : after (exec .startCRaw .reset) State.outData = some (some (Config.magic 0)) := rfl
theorem test_out :
    after (exec .out { mid .cBody .raw with outq := [1, 2] }) (fun t => (t.outq, t.taken, t.outCount)) =
      some ([2], 1, 1) := by decide

/-! ### Tokens -/

/-- V-E1, with a first byte that is not M0. -/
theorem test_hdrMagic_bad :
    after (exec (.hdrMagic (Config.magic 0 + 1)) (mid .dHdr .none)) State.statusReg = some 0x423 := by
  simp [exec, execHdrMagic, State.atPhase, State.At, mid, State.reset, State.headerMagic, after, State.raise,
    State.statusReg, ErrCode.code, RunState.code, AMode.code]
theorem test_hdrMagic_good : after (exec (.hdrMagic (Config.magic 0)) (mid .dHdr .none)) State.hidx = some 1 := by
  simp [exec, execHdrMagic, State.atPhase, State.At, mid, State.reset, State.headerMagic, after]
theorem test_hdrModeRank :
    after (exec .hdrModeRank { mid .dHdr .none with hidx := 3 }) (fun t => (t.amode, t.phase)) = some (.rank, .dFlag) := by
  decide
/-- V-E3. -/
theorem test_hdrModeBad : after (exec (.hdrModeBad 0) { mid .dHdr .none with hidx := 3 }) State.statusReg = some 0x423 := by
  decide
/-- V-R9. -/
theorem test_f0 : after (exec .f0 (mid .dFlag .raw)) (fun t => (t.phase, t.rem)) = some (.dLit, 0) := by decide
theorem test_f1K0 : after (exec .f1K0 (mid .dFlag .raw)) (fun t => (t.phase, t.rem)) = some (.dReplay, 1) := by decide
/-- V-R8. -/
theorem test_f1K2 : after (exec (.f1K2 1) (mid .dFlag .raw)) (fun t => (t.phase, t.rem)) = some (.dReplay, 5) := by decide
/-- V-R5. -/
theorem test_f1K13 : after (exec (.f1K13 0b0011100010000) (mid .dFlag .raw)) State.rem = some 10000 := by decide
/-- The longest run (R75). -/
theorem test_f1K31 : after (exec (.f1K31 0x7FFFFFFF) (mid .dFlag .raw)) State.rem = some 0xFFFFFFFF := by decide
/-- V-E12. -/
theorem test_runOvf : after (exec .runOvf (mid .dFlag .raw)) State.statusReg = some 0x553 := by decide
/-- V-P10. -/
theorem test_lit8 :
    after (exec (.lit8 0x41) (mid .dLit .raw)) (fun t => (t.outq, t.cb, t.ctx, t.phase)) =
      some ([0x41], [(0, 0x41)], 0x41, .dFlag) := by decide
theorem test_litFF : after (exec .litFF (mid .dLit .raw)) (fun t => (t.outq, t.cb)) = some ([0xFF], [(0, 0xFF)]) := by
  decide
/-- V-N2: the bits after the marker are dropped. -/
theorem test_eosRaw :
    after (exec .eosRaw { mid .dLit .raw with cur := 0xFF, nleft := 6 }) (fun t => (t.phase, t.nleft)) =
      some (.dTail, 0) := by decide
/-- V-T3: rank 65 is 0x41 after START. -/
theorem test_rlitK3 :
    after (exec (.rlitK3 9) (mid .dLit .rank)) (fun t => (t.outq, t.rank.order.take 3, t.rank.freqOf 0x41, t.rank.anchor)) =
      some ([0x41], [0x41, 0, 1], 1, 0x41) := by decide
theorem test_rlitK5 : after (exec (.rlitK5 7) (mid .dLit .rank)) State.outq = some [0xFF] := by decide
/-- V-E10. -/
theorem test_badRankK5 : after (exec (.badRankK5 9) (mid .dLit .rank)) State.statusReg = some 0x643 := by decide
/-- A token of the other mode is not fetched. -/
theorem test_rlitK0_in_raw_mode : after (exec (.rlitK0 0) (mid .dLit .raw)) State.outq = some [] := by decide

/-! ### Components -/

/-- V-P1 to V-P4. -/
theorem test_nextCtx :
    nextCtx 0 0x41 = 0x00041 ∧ nextCtx 0x00007 0xFF = 0x001DF ∧ nextCtx 0xFFFFF 0xFF = 0x000DF ∧
    nextCtx 0x12345 0x41 = 0x468E1 := by decide
/-- V-B1 (its last bit) and V-B3. -/
theorem test_bitWriter :
    ({ State.reset with acc := 0x7E, nacc := 7 } : State).putBit true = { State.reset with outq := [0x7F] } ∧
    ({ State.reset with acc := 0x40, nacc := 2 } : State).padToByte = { State.reset with outq := [0x40] } := ⟨rfl, rfl⟩
/-- Codes of the table after V-P10, longest prefix and suffix. -/
theorem test_vlcBits :
    vlcBits 65 3 = bitsOfNat 10 0b1110001001 ∧ vlcBits 256 3 = bitsOfNat 14 0b11111000001000 ∧
    vlcBits 998 0 = bitsOfNat 19 0b1111111110111100111 ∧ vlcBits 0 0 = [false] := by decide
/-- V-B5, V-B7. -/
theorem test_getVLC :
    getVLC .runLen 0 0 (bitsOfNat 5 0b11001) = .got (4, 2) [] ∧
    getVLC .rank 0 3 (bitsOfNat 7 0b1111110) = .bad [false] := by decide
/-- V-B10. -/
theorem test_unread : unreadBits .msbFirst 0x7F 8 = bitsOfNat 8 0b01111111 := by decide
/-- V-T1, V-T2. -/
theorem test_moveToFront :
    (RankTable.initial.moveToFront 3).order.take 6 = [3, 0, 1, 2, 4, 5] ∧
    (RankTable.initial.moveToFront 0).order.take 6 = [0, 1, 2, 3, 4, 5] := ⟨rfl, rfl⟩
/-- V-T4. -/
theorem test_onMatchedByte :
    let t := ((RankTable.initial.onLiteralByte 0xFE).onLiteralByte 0xFF).onMatchedByte 0
    t.order.take 5 = [0x00, 0xFF, 0xFE, 0x01, 0x02] ∧ t.freqOf 0 = 1 ∧ t.anchor = 0 := by decide +kernel

/-! ### Steps -/

/-- V-E9: bits 1111110 left of the byte 0x7E in rank mode. -/
theorem test_step_badRankPrefix :
    after (step { mid .dLit .rank with cur := 0x7E, nleft := 7, inCount := 5 }) (fun t => (t.statusReg, t.inCount)) =
      some (0x643, 5) := by decide
/-- V-R10: one of the three replayed bytes. -/
theorem test_step_replay :
    after (step { mid .dReplay .raw with rem := 3 }) (fun t => (t.outq, t.ctx, t.rem, t.phase)) =
      some ([0], 0, 2, .dReplay) := by decide
/-- V-H12: DONE only after the last byte is taken. -/
theorem test_step_complete :
    after (step { mid .cFinish .raw with outq := [0xE0] }) State.st = some .busy ∧
    after (step (mid .cFinish .raw)) State.st = some .done := by decide
/-- A token cut by the end of its byte goes on with the next: P3, bits 0100 of 0xD4 and 0001 of 0x17. -/
theorem test_step_pause :
    after (step { mid .dLit .raw with cur := 0xD4, nleft := 4 }) (fun t => (t.tok, t.nleft)) =
      some ([false, true, false, false], 0) ∧
    after (step { mid .dLit .raw with cur := 0x17, nleft := 8, tok := [false, true, false, false] })
      (fun t => (t.outq, t.tok, t.nleft)) = some ([0x41], [], 4) := by decide
/-- Table words placed where the next step reads them: START_C_RANK (V-H2), RLIT_K2 of rank 25, F1_K3 of length 13. -/
theorem test_step_withFetchWord :
    after (step (State.reset.withFetchWord 32 0x9)) State.statusReg = some 0x201 ∧
    after (step (State.reset.withFetchWord 8 0b11000001)) State.outq = some [25] ∧
    after (step (State.reset.withFetchWord 8 0b11110101)) State.rem = some 13 := by decide

/-! ### Witnesses: for each obligation with hypotheses, states and operands that meet them -/

/-- A decompress stream with a whole byte before it, whose first bit is the token F0. -/
def flagState : State := { mid .dFlag .raw with cur := 0x41, nleft := 8 }
/-- A stream that is over, and one that failed; the host then starts a decompress stream. -/
def doneState : State := { State.reset with st := .done, amode := .rank, host := [.write 0x00 0x3] }
def errState : State := { State.reset with st := .error, err := .format, host := [.write 0x00 0x3] }

theorem flagState_inv : flagState.Inv where
  memory := rfl
  perm := RankTable.initial_perm
  front := rfl
  rawTable := fun _ => rfl
  busy := by decide
  err := by decide
  drained := by decide
  place := ⟨rfl, by decide⟩
  run := fun _ _ => rfl
  rem := by decide
  reader := by decide
  paused := fun h => absurd rfl h
  header := by decide
  untouched := fun h => by cases h

theorem doneState_inv : doneState.Inv where
  memory := rfl
  perm := RankTable.initial_perm
  front := rfl
  rawTable := fun _ => rfl
  busy := by decide
  err := by decide
  drained := fun _ => rfl
  place := trivial
  run := fun _ _ => rfl
  rem := by decide
  reader := by decide
  paused := fun h => absurd rfl h
  header := by decide
  untouched := fun h => by cases h

theorem errState_inv : errState.Inv where
  memory := rfl
  perm := RankTable.initial_perm
  front := rfl
  rawTable := fun _ => rfl
  busy := by decide
  err := by decide
  drained := fun _ => rfl
  place := trivial
  run := fun _ _ => rfl
  rem := by decide
  reader := by decide
  paused := fun h => absurd rfl h
  header := by decide
  untouched := fun h => by cases h

theorem test_witness_ResetInputAbandonsTheStream :
    let s : State := { mid .cBody .rank with run := 7, outq := [1], host := [.rst, .take] }
    s.nextAgent = .host ∧ s.host = .rst :: [.take] := by decide

theorem test_witness_ctrl_writes :
    (mid .cBody .raw).st = .busy ∧ State.reset.st ≠ .busy ∧ doneState.st ≠ .busy ∧ errState.st ≠ .busy ∧
    ((Instr.startCBad0 = .startCBad0 ∧ (0 : BitVec 2) = 0) ∨ (Instr.startCBad0 = .startCBad3 ∧ (0 : BitVec 2) = 3)) ∧
    ((Instr.startCBad3 = .startCBad0 ∧ (3 : BitVec 2) = 0) ∨ (Instr.startCBad3 = .startCBad3 ∧ (3 : BitVec 2) = 3)) := by
  decide

theorem test_witness_CtrlWordDependsOnLowFourBits :
    (3 : BitVec 8).toNat < 4 ∧ (0xFFFFFFF5 : Word).toNat % 16 = 5 ∧ (0x9 : Word).toNat % 16 = 9 ∧
    (0x1 : Word).toNat % 16 = 1 ∧ (0xFFFFFFFD : Word).toNat % 16 = 13 ∧ (0x3 : Word).toNat % 4 = 3 ∧
    (0xF : Word).toNat % 4 = 3 ∧ (0x0 : Word).toNat % 2 = 0 ∧ (0xFFFFFFFE : Word).toNat % 2 = 0 := by decide

theorem test_witness_RegisterAddressMap :
    (0x00 : BitVec 8).toNat / 4 = 0 ∧ (0x03 : BitVec 8).toNat / 4 = 0 ∧ (0x04 : BitVec 8).toNat / 4 = 1 ∧
    (0x07 : BitVec 8).toNat / 4 = 1 ∧ (0x08 : BitVec 8).toNat / 4 = 2 ∧ (0x0B : BitVec 8).toNat / 4 = 2 ∧
    (0x0C : BitVec 8).toNat / 4 = 3 ∧ (0x0F : BitVec 8).toNat / 4 = 3 ∧ 4 ≤ (0x10 : BitVec 8).toNat / 4 ∧
    4 ≤ (0xFF : BitVec 8).toNat / 4 := by decide

theorem test_witness_WriteToOtherAddressHasNoEffect :
    4 ≤ (0x04 : BitVec 8).toNat ∧ 4 ≤ (0x10 : BitVec 8).toNat ∧ 4 ≤ (0xFF : BitVec 8).toNat := by decide

theorem test_witness_EveryHostOperationDecodes :
    HostOp.take ≠ .rst ∧ HostOp.read 0xFF ≠ .rst ∧ HostOp.write 0x10 0 ≠ .rst ∧ HostOp.beat 0 ≠ .rst := by decide

theorem test_witness_OutTakesTheHead :
    ({ mid .cBody .raw with outq := [1, 2] } : State).outq = 1 :: [2] ∧ State.reset.outq = [] := by decide

theorem test_witness_BeatIsHeldUntilAccepted :
    State.reset.st ≠ .busy ∧ (mid .cFinish .raw).phase = .cFinish ∧ (mid .dReplay .raw).phase = .dReplay ∧
    (mid .dFinish .raw).phase = .dFinish ∧ State.reset.phase = .halt ∧
    (flagState.phase = .dFlag ∧ flagState.nleft ≠ 0) ∧
    (let s : State := { mid .dLit .raw with nleft := 1 }; s.phase = .dLit ∧ s.nleft ≠ 0) ∧
    (let s : State := { mid .dHdr .none with hdrByte := some 0 }; s.phase = .dHdr ∧ s.hdrByte ≠ none) := by decide

theorem test_witness_beats_that_feed_a_wait :
    (mid .dHdr .none).At .dHdr ∧ (mid .dHdr .none).hdrByte = none ∧ (mid .dFlag .raw).At .dFlag ∧
    (mid .dFlag .raw).nleft = 0 ∧ (mid .dLit .rank).At .dLit ∧ (mid .dLit .rank).nleft = 0 ∧
    (mid .dTail .raw).At .dTail := by decide

theorem test_witness_NoHostMoveInsideAStep :
    exec (.inData 0x41) (mid .dFlag .raw) = .next { flagState with inCount := 1 } := rfl

theorem test_witness_MatchedByteAccumulates :
    let s : State := { mid .cBody .rank with run := 0xFFFFFFFE }
    s.At .cBody ∧ Memory.read s.cb s.ctx.toNat = 0 ∧ s.run.toNat ≠ 2 ^ 32 - 1 ∧
    ¬(s.amode = .rank ∧ (s.rank.freqOf 0).toNat = 2 ^ 32 - 1) := by decide

theorem test_witness_EncoderOverflowsArePrecise :
    (let s : State := { mid .cBody .rank with run := 0xFFFFFFFF }
     s.At .cBody ∧ Memory.read s.cb s.ctx.toNat = 0 ∧ s.run.toNat = 2 ^ 32 - 1) ∧
    (let s : State := { mid .cBody .rank with rank := fullRank }
     s.At .cBody ∧ (Memory.read s.cb s.ctx.toNat = 0 → s.run.toNat ≠ 2 ^ 32 - 1) ∧ s.amode = .rank ∧
     (s.rank.freqOf 0).toNat = 2 ^ 32 - 1) ∧
    (let s : State := { mid .cBody .rank with rank := fullRank, run := 0xFFFFFFFF }
     (Memory.read s.cb s.ctx.toNat = 5 → s.run.toNat ≠ 2 ^ 32 - 1) ∧ (s.rank.freqOf 5).toNat = 2 ^ 32 - 1) := by decide

theorem test_witness_MissedByteEmitsItsRecord :
    let s : State := { mid .cBody .rank with run := 5 }
    s.At .cBody ∧ Memory.read s.cb s.ctx.toNat ≠ 8 ∧ ¬(s.amode = .rank ∧ (s.rank.freqOf 8).toNat = 2 ^ 32 - 1) ∧
    (s.run ≠ 0 → inClass 2 (s.run.toNat - 1) 0) ∧ inClass 1 (s.rank.order.idxOf 8) 3 := by
  refine ⟨by decide, by decide, by decide, fun _ => ?_, ?_⟩ <;> unfold inClass <;> decide

theorem test_witness_EndOfInputClosesTheStream :
    let s : State := { mid .cBody .raw with run := 0xFFFFFFFF }
    s.At .cBody ∧ (s.run ≠ 0 → inClass 31 (s.run.toNat - 1) 0) := by
  refine ⟨by decide, fun _ => ?_⟩; unfold inClass; decide

theorem test_witness_HeaderBytesAreChecked :
    (mid .dHdr .none).At .dHdr ∧ (∀ k : Fin 3, ({ mid .dHdr .none with hidx := k.val } : State).hidx.toNat = k.val) ∧
    Config.magic 0 = Config.magic 0 ∧ Config.magic 0 + 1 ≠ Config.magic 0 ∧
    ({ mid .dHdr .none with hidx := 3 } : State).hidx = 3 := by
  refine ⟨by decide, by decide, rfl, ?_, by decide⟩
  generalize Config.magic 0 = b
  revert b
  decide

theorem test_witness_FlagTokensSetTheReplay :
    (mid .dFlag .raw).At .dFlag ∧ runOf .f1K0 = some 1 ∧ runOf (.f1K1 0) = some 2 ∧
    runOf (.f1K31 0x7FFFFFFF) = some (2 ^ 32 - 1) := by decide

theorem test_witness_literals :
    (mid .dLit .raw).At .dLit ∧ (mid .dLit .raw).amode = .raw ∧ (mid .dLit .rank).amode ≠ .raw ∧
    rawByteOf (.lit8 0) = some 0 ∧ rawByteOf .litFF = some 0xFF ∧
    rankOfToken (.rlitK0 0) = some 0 ∧ rankOfToken (.rlitK1 0) = some 8 ∧ rankOfToken (.rlitK2 0) = some 24 ∧
    rankOfToken (.rlitK3 0) = some 56 ∧ rankOfToken (.rlitK4 0) = some 120 ∧ rankOfToken (.rlitK5 7) = some 255 := by
  decide

theorem test_witness_RankLiteralsAreEmitted :
    (mid .dLit .rank).rank.order[255]? = some 0xFF ∧ (mid .dLit .rank).rank.order[0]? = some 0 ∧
    ((mid .dLit .rank).rank.freqOf 0xFF).toNat ≠ 2 ^ 32 - 1 ∧ fullRank.order[255]? = some 0xFF ∧
    (fullRank.freqOf 0xFF).toNat = 2 ^ 32 - 1 := ⟨rfl, rfl, by decide, rfl, by decide⟩

theorem test_witness_NoTokenRunsUnlessBusy : isToken (.lit8 3) ∧ isToken .f0 ∧ State.reset.st ≠ .busy :=
  ⟨fun _ h => (nomatch h), fun _ h => (nomatch h), by decide⟩

theorem test_witness_ReplayEmitsThePrediction :
    (let s : State := { mid .dReplay .rank with rem := 1 }
     s.At .dReplay ∧ s.nextAgent = .block ∧ Memory.read s.cb s.ctx.toNat = 0 ∧
     ¬(s.amode = .rank ∧ (s.rank.freqOf 0).toNat = 2 ^ 32 - 1)) ∧
    (let s : State := { mid .dReplay .rank with rem := 2, rank := fullRank }
     s.amode = .rank ∧ (s.rank.freqOf 0).toNat = 2 ^ 32 - 1 ∧ s.nextAgent = .block) := by decide

theorem test_witness_CompleteWaitsForTheQueue :
    (mid .cFinish .raw).At .cFinish ∧ (mid .cFinish .raw).outq = [] ∧ (mid .cFinish .raw).nextAgent = .block ∧
    (mid .dFinish .rank).At .dFinish ∧ ({ mid .dFinish .rank with outq := [1] } : State).outq ≠ [] ∧
    ({ mid .dFinish .rank with outq := [1] } : State).host = [] := by decide

/-- The queue not empty, and a host that takes its last byte: the step answers, and the stream is not DONE yet. -/
theorem test_witness_CompleteWaits_with_a_host :
    (mid .cFinish .raw).At .cFinish ∧
    step { mid .cFinish .raw with outq := [7], host := [.take] } =
      .next { mid .cFinish .raw with taken := 7, outCount := 1 } := ⟨by decide, rfl⟩

theorem test_witness_StepRunsTheDecodedToken :
    (flagState.At .dFlag ∧ flagState.nleft ≠ 0 ∧ flagState.nextAgent = .block ∧
     flagState.decodeToken (flagState.tok ++ flagState.unread) = .got .f0 (bitsOfNat 7 0b1000001)) ∧
    (let s : State := { mid .dLit .rank with cur := 0x00, nleft := 3 }
     s.At .dLit ∧ s.nleft ≠ 0 ∧ s.nextAgent = .block ∧ s.decodeToken (s.tok ++ s.unread) = .wait) := by decide

theorem test_witness_StepRunsTheHostOperation :
    doneState.nextAgent = .host ∧ doneState.host = .write 0x00 0x3 :: [] ∧
    decode (.host (.write 0x00 0x3)) = .ok (.startD 0) := ⟨by decide, by decide, rfl⟩

theorem test_witness_StepRunsTheHeaderByte :
    let s : State := { mid .dHdr .none with hdrByte := some 0x4C }
    s.At .dHdr ∧ s.hdrByte = some 0x4C := by decide

theorem test_witness_rank_table :
    RankTable.initial.Perm ∧ RankTable.initial.anchor = RankTable.initial.front ∧
    (RankTable.initial.freqOf 7).toNat ≠ 2 ^ 32 - 1 := ⟨RankTable.initial_perm, rfl, by decide⟩

theorem test_witness_VlcLoopIsTheClosedForm :
    inClass 0 0 0 ∧ inClass 0 7 3 ∧ inClass 1 8 3 ∧ inClass 5 256 3 ∧ inClass 31 (2 ^ 32 - 2) 0 := by
  unfold inClass; decide

theorem test_witness_VlcIsInvertible :
    2 ^ 32 - 2 < 2 ^ 32 - 1 ∧ 256 ≤ 256 ∧ vlcBits 5 3 = vlcBits 5 3 ++ [] ∧ 7 < 8 ∧ 31 ≤ 31 ∧ 5 ≤ 5 := by decide

theorem test_witness_encodings :
    (Instr.f1K2 1).wellFormed = true ∧ encode (.f1K2 1) = .flag (bitsOfNat 6 0b111001) ∧
    (Instr.lit8 0xFE).wellFormed = true ∧ encode (.lit8 0xFE) = .raw (bitsOfNat 8 0xFE) ∧
    (Instr.badRankK5 9).wellFormed = true ∧ encode (.badRankK5 9) = .rank (bitsOfNat 14 0b11111000001001) := by decide

theorem test_witness_TokenDecodersReadTheirCode :
    decodeFlag (bitsOfNat 7 0b1110011) = .got (.f1K2 1) [true] ∧ decodeRaw (bitsOfNat 9 0x1FE) = .got .litFF [] ∧
    decodeRank (bitsOfNat 5 0b00111) = .got (.rlitK0 3) [true] := by decide

/-- A step that changes the phase, from a state of the invariant. -/
theorem test_witness_invariant_steps :
    flagState.Inv ∧ step flagState = .next { flagState with nleft := 7, phase := .dLit } ∧ flagState.st = .busy ∧
    Phase.dLit ≠ flagState.phase ∧ flagState.amode ≠ .none := ⟨flagState_inv, rfl, rfl, by decide, by decide⟩

/-- A step from DONE and one from ERROR. -/
theorem test_witness_StateChangesOnlyAsStated :
    (doneState.Inv ∧ doneState.st = .done ∧ step doneState = .next (decompressing 0 { doneState with host := [] })) ∧
    (errState.Inv ∧ errState.st = .error ∧ step errState = .next (decompressing 0 { errState with host := [] })) :=
  ⟨⟨doneState_inv, rfl, rfl⟩, ⟨errState_inv, rfl, rfl⟩⟩

theorem test_witness_CtrlModeDoesNotReachTheStream :
    blind flagState = blind { flagState with ctrlMode := 3 } ∧
    step flagState = .next { flagState with nleft := 7, phase := .dLit } ∧
    flagState.csrRdata = ({ flagState with ctrlMode := 3 } : State).csrRdata ∧
    ¬hostMoves flagState (fun i => i = .rdCtrl) :=
  ⟨rfl, rfl, rfl, fun h => absurd h.1 (by decide)⟩

theorem test_witness_UnspecifiedValuesAreNotObservable :
    doneState.Inv ∧ ({ doneState with acc := 5, ctx := 9, hidx := 2 } : State).Inv ∧
    unseen doneState = unseen { doneState with acc := 5, ctx := 9, hidx := 2 } ∧
    step doneState = .next (decompressing 0 { doneState with host := [] }) :=
  ⟨doneState_inv, { doneState_inv with paused := doneState_inv.paused, untouched := fun h => by cases h }, rfl, rfl⟩

theorem test_witness_InCountCountsAcceptedDataBeats :
    let s : State := { mid .dTail .raw with host := [.beat 0x041] }
    (hostMoves s (fun i => ∃ d, i = .inData d) ∧ s.inReady = true) ∧
    step s = .next { mid .dTail .raw with inCount := 1 } :=
  ⟨⟨⟨by decide, _, _, _, rfl, rfl, 0x41, rfl⟩, by decide⟩, rfl⟩

/-- A START that takes effect, and the reset input. -/
theorem test_witness_InCount_cleared :
    (doneState.st ≠ .busy ∧ hostMoves doneState isStart) ∧ resetMoves { doneState with host := [.rst] } :=
  ⟨⟨by decide, by decide, _, _, _, rfl, rfl, .inr (.inr (.inr (.inr ⟨0, rfl⟩)))⟩, by decide, _, rfl⟩

/-- A step that neither takes a data beat nor clears the count. -/
theorem test_witness_InCount_kept :
    flagState.nextAgent = .block ∧ step flagState = .next { flagState with nleft := 7, phase := .dLit } :=
  ⟨by decide, rfl⟩

theorem test_witness_BlockComesToRest : flagState.Inv ∧ flagState.host = [] := ⟨flagState_inv, rfl⟩

theorem test_witness_DirectionsMirrorEachOther :
    (mid .cBody .rank).At .cBody ∧ sameTables (mid .cBody .rank) (mid .dReplay .rank) ∧
    sameTables (mid .cBody .rank) (mid .dLit .rank) ∧ (mid .cBody .rank).rank.Perm ∧
    ¬(mid .cBody .rank).freqOverflows 0 ∧ (mid .cBody .rank).predict = 0 ∧ (mid .cBody .rank).run.toNat ≠ 2 ^ 32 - 1 ∧
    (mid .dReplay .rank).At .dReplay ∧ (mid .cBody .rank).predict ≠ 0xFF ∧ (mid .dLit .rank).At .dLit :=
  ⟨by decide, ⟨rfl, rfl, rfl, rfl⟩, ⟨rfl, rfl, rfl, rfl⟩, RankTable.initial_perm, by decide, by decide, by decide,
    by decide, by decide, by decide⟩

theorem test_witness_RoundTrip :
    [0x41#8, 0x00#8, 0xFF#8].length < 2 ^ 32 ∧ AMode.rank ≠ .none ∧ AMode.raw ≠ .none ∧ State.reset.st ≠ .busy ∧
    doneState.st ≠ .busy := by decide

end Sys2Proof.Tests
end

section
/-! PROOFS of 43_rank_tracker.md: where each entry stands after MoveToFront (R160, R161). -/

namespace Sys2Proof.Machine

variable (t : RankTable) (c : Byte)

@[simp] theorem RankTable.moveToFront_order : (t.moveToFront c).order = c :: t.order.eraseIdx (t.rankOf c) := rfl

/-- RankOf is the place of its symbol (R161). -/
theorem RankTable.Perm.getElem?_rankOf {t : RankTable} (h : t.Perm) (c : Byte) : t.order[t.rankOf c]? = some c :=
  List.getElem?_idxOf (h.mem c)

/-- The entries before the place of c move up one (R160). -/
theorem RankTable.getElem?_moveToFront_of_le_rankOf {i : Nat} (hpos : 1 ≤ i) (hle : i ≤ t.rankOf c) :
    (t.moveToFront c).order[i]? = t.order[i - 1]? := by
  obtain ⟨j, rfl⟩ := Nat.exists_eq_add_of_le' hpos
  rw [moveToFront_order, List.getElem?_cons_succ, Nat.add_sub_cancel]
  exact List.getElem?_eraseIdx_of_lt hle

/-- The entries after the place of c stay (R160). -/
theorem RankTable.getElem?_moveToFront_of_rankOf_lt {i : Nat} (hlt : t.rankOf c < i) :
    (t.moveToFront c).order[i]? = t.order[i]? := by
  obtain ⟨j, rfl⟩ := Nat.exists_eq_add_of_le' (Nat.one_le_of_lt hlt)
  rw [moveToFront_order, List.getElem?_cons_succ]
  exact List.getElem?_eraseIdx_of_ge (Nat.le_of_lt_succ hlt)

/-- Settles O39: the place is RankOf(c), and each entry of the new list is c itself, one from before that place or one
from after it. -/
theorem moveToFrontMovesOneEntry : Obligations.MoveToFrontMovesOneEntry := fun t c hperm =>
  ⟨t.rankOf c, hperm.rankOf_lt c, rfl, hperm.getElem?_rankOf c, hperm.moveToFront c, rfl,
    fun _ => t.getElem?_moveToFront_of_le_rankOf c, fun _ => t.getElem?_moveToFront_of_rankOf_lt c, rfl, rfl⟩

end Sys2Proof.Machine
end

section
/-! PROOFS of 44_stream_controller.md: the beats after the stream's end (R190). -/

namespace Sys2Proof.Machine

variable {s : State}

/-- An accepted data beat does what its phase says (R222). -/
theorem exec_inData_of_inReady (h : s.inReady = true) (d : Byte) : exec (.inData d) s = .next (s.acceptByte d) := by
  change execInData d s = _
  rw [execInData, if_pos h]

/-- An accepted END does what its phase says, whatever in_data is (R222, 30_encoding.md R81). -/
theorem exec_inEnd_of_inReady (h : s.inReady = true) (x : Byte) : exec (.inEnd x) s = .next s.acceptEnd := by
  change execInEnd x s = _
  rw [execInEnd, if_pos h]

/-- D_TAIL always needs a beat (R222). -/
theorem State.inReady_of_at_dTail (h : s.At .dTail) : s.inReady = true := by
  obtain ⟨hbusy, hphase⟩ := h
  simp [State.inReady, hbusy, hphase]

theorem State.acceptByte_of_at_dTail (h : s.At .dTail) (d : Byte) : s.acceptByte d = s.tailByte := by
  rw [State.acceptByte, h.2]

theorem State.acceptEnd_of_at_dTail (h : s.At .dTail) : s.acceptEnd = s.tailEnd := by
  rw [State.acceptEnd, h.2]

/-- Settles O18: D_TAIL accepts every beat, and a data beat goes to `tailByte`, END to `tailEnd`. -/
theorem tailBeatsAreDiscarded : Obligations.TailBeatsAreDiscarded := by
  intro s hat
  have hready := State.inReady_of_at_dTail hat
  constructor
  case left =>
    intro d
    rw [exec_inData_of_inReady hready, State.acceptByte_of_at_dTail hat]
    rfl
  case right =>
    intro x
    rw [exec_inEnd_of_inReady hready, State.acceptEnd_of_at_dTail hat]
    rfl

end Sys2Proof.Machine
end

section
/-! PROOFS of 45_host_interface.md: register reads, and writes to any address but CTRL's (R224, R226). -/

namespace Sys2Proof

/-- A field and the n bits below it, as a number. -/
theorem toNat_append_field {m n : Nat} (hi : BitVec m) (lo : BitVec n) :
    (hi ++ lo).toNat = hi.toNat * 2 ^ n + lo.toNat := by
  rw [BitVec.toNat_append, ← Nat.shiftLeft_add_eq_or_of_lt lo.isLt, Nat.shiftLeft_eq]

/-- csr_addr[7:2] is the address by words (20_memory.md R57). -/
theorem csrAddr_word_eq_iff (addr : BitVec 8) (k : BitVec 6) :
    addr.extractLsb' 2 6 = k ↔ addr.toNat / 4 = k.toNat := by
  have hword : (addr.extractLsb' 2 6).toNat = addr.toNat / 4 := by
    rw [BitVec.extractLsb'_toNat, Nat.shiftRight_eq_div_pow, Nat.mod_eq_of_lt (by omega)]
  rw [← BitVec.toNat_inj, hword]

/-- The register a read address picks, by words (R57, R224). -/
theorem decodeRead_eq (addr : BitVec 8) :
    decodeRead addr =
      if addr.toNat / 4 = 0 then .rdCtrl else if addr.toNat / 4 = 1 then .rdStatus
      else if addr.toNat / 4 = 2 then .rdInCount else if addr.toNat / 4 = 3 then .rdOutCount
      else .rdUnmapped addr := by
  simp [decodeRead, csrAddr_word_eq_iff]

/-- The register a write address picks, by words (R57, R225, R226). -/
theorem decodeWrite_eq (addr : BitVec 8) (wdata : Word) :
    decodeWrite addr wdata =
      if addr.toNat / 4 = 0 then decodeCtrl wdata else if addr.toNat / 4 = 1 then .wrStatus wdata
      else if addr.toNat / 4 = 2 then .wrInCount wdata else if addr.toNat / 4 = 3 then .wrOutCount wdata
      else .wrUnmapped addr wdata := by
  simp [decodeWrite, csrAddr_word_eq_iff]

namespace Machine

/-- CTRL as read, as a number: bit 0 is START, which reads 0 (10_state.md R36). -/
theorem State.ctrlReg_toNat (s : State) : s.ctrlReg.toNat = s.ctrlDir.toNat * 2 + s.ctrlMode.toNat * 4 := by
  rw [State.ctrlReg, BitVec.toNat_setWidth_of_le (by decide)]
  simp only [toNat_append_field, BitVec.toNat_zero]
  omega

/-- STATUS as read, as a number: bits 3:2 read 0 (10_state.md R37). -/
theorem State.statusReg_toNat (s : State) :
    s.statusReg.toNat =
      s.st.code.toNat + s.err.code.toNat * 16 + s.amode.code.toNat * 256 + s.adir.toNat * 1024 := by
  rw [State.statusReg, BitVec.toNat_setWidth_of_le (by decide)]
  simp only [toNat_append_field, BitVec.toNat_zero]
  omega

variable (s : State)

theorem exec_rdCtrl : exec .rdCtrl s = .next (s.readReg s.ctrlReg) := rfl

theorem exec_rdStatus : exec .rdStatus s = .next (s.readReg s.statusReg) := rfl

theorem exec_rdInCount : exec .rdInCount s = .next (s.readReg s.inCount) := by
  change Host.Outcome.next (s.readReg (s.inCount.setWidth 32)) = _
  rw [BitVec.setWidth_eq]

theorem exec_rdOutCount : exec .rdOutCount s = .next (s.readReg s.outCount) := by
  change Host.Outcome.next (s.readReg (s.outCount.setWidth 32)) = _
  rw [BitVec.setWidth_eq]

theorem exec_rdUnmapped (addr : BitVec 8) : exec (.rdUnmapped addr) s = .next (s.readReg 0) := rfl

theorem exec_wrStatus (wdata : Word) : exec (.wrStatus wdata) s = .next s := rfl

theorem exec_wrInCount (wdata : Word) : exec (.wrInCount wdata) s = .next s := rfl

theorem exec_wrOutCount (wdata : Word) : exec (.wrOutCount wdata) s = .next s := rfl

theorem exec_wrUnmapped (addr : BitVec 8) (wdata : Word) : exec (.wrUnmapped addr wdata) s = .next s := rfl

/-- A write past CTRL's four addresses is one of the four that do nothing (R226). -/
theorem exec_decodeWrite_of_four_le {addr : BitVec 8} (h : 4 ≤ addr.toNat) (wdata : Word) :
    exec (decodeWrite addr wdata) s = .next s := by
  rw [decodeWrite_eq, if_neg (by omega)]
  split_ifs
  · exact exec_wrStatus s wdata
  · exact exec_wrInCount s wdata
  · exact exec_wrOutCount s wdata
  · exact exec_wrUnmapped s addr wdata

/-- Settles O10: each read is `readReg` of its register's image, and the images are the sums of their fields. -/
theorem registerReadsReturnTheFields : Obligations.RegisterReadsReturnTheFields := fun s =>
  ⟨⟨s.ctrlReg, s.ctrlReg_toNat, exec_rdCtrl s⟩, ⟨s.statusReg, s.statusReg_toNat, exec_rdStatus s⟩,
    exec_rdInCount s, exec_rdOutCount s, exec_rdUnmapped s, fun addr => congrArg Except.ok (decodeRead_eq addr)⟩

/-- Settles O11: from address 4 on, the register picked is none of CTRL's, and its write does nothing. -/
theorem writeToOtherAddressHasNoEffect : Obligations.WriteToOtherAddressHasNoEffect := fun s v =>
  ⟨exec_wrStatus s v, exec_wrInCount s v, exec_wrOutCount s v, fun addr => exec_wrUnmapped s addr v,
    fun addr h => ⟨decodeWrite addr v, rfl, exec_decodeWrite_of_four_le s h v⟩⟩

end Machine
end Sys2Proof
end

section
/-! PROOFS of 60_exceptions.md: the errors of a START (R301), of a header byte (R302, R303) and of ENC_BYTE (R307,
R308, R310). -/

namespace Sys2Proof.Machine

open Sys2Proof.Claims

variable {s : State} {c : Byte}

/-- The one way into STATE = ERROR is the error entry the claims speak of (R309). -/
theorem State.raise_eq_failed (e : ErrCode) (s : State) : s.raise e = failed e s := rfl

/-! ### A CTRL write that starts a stream -/

theorem State.writeCtrl_of_not_busy (h : s.st ≠ .busy) (dir : BitVec 1) (mode : BitVec 2) (act : State → State) :
    s.writeCtrl dir mode act = act { s with ctrlDir := dir, ctrlMode := mode } := if_neg h

theorem exec_startCBad0 (s : State) : exec .startCBad0 s = .next (s.writeCtrl 0 0 State.startCompress) := rfl

theorem exec_startCBad3 (s : State) : exec .startCBad3 s = .next (s.writeCtrl 0 3 State.startCompress) := rfl

theorem exec_startD (s : State) (mode : BitVec 2) :
    exec (.startD mode) s = .next (s.writeCtrl 1 mode State.startDecompress) := rfl

/-- START_COMPRESS raises USAGE for a MODE that names no coder (44_stream_controller.md R180). -/
theorem State.startCompress_of_mode_ne (hraw : s.ctrlMode ≠ 1) (hrank : s.ctrlMode ≠ 2) :
    s.startCompress = ({ s.clearPorts 0 with amode := .none } : State).raise .usage := if_pos ⟨hraw, hrank⟩

/-- START_DECOMPRESS looks at no MODE and leaves no error (44_stream_controller.md R185). -/
theorem State.startDecompress_err (s : State) : s.startDecompress.err = .none := rfl

/-- The compress START of a MODE that names no coder: the fields are stored, the ports cleared, and USAGE follows. -/
theorem State.writeCtrl_startCompress_of_mode_ne (h : s.st ≠ .busy) {mode : BitVec 2} (hraw : mode ≠ 1)
    (hrank : mode ≠ 2) :
    s.writeCtrl 0 mode State.startCompress = failed .usage
      { s with ctrlDir := 0, ctrlMode := mode, inCount := 0, outCount := 0, adir := 0, amode := .none, outq := [] } := by
  rw [State.writeCtrl_of_not_busy h, State.startCompress_of_mode_ne hraw hrank, State.raise_eq_failed]
  rfl

/-- Settles O7: 0 and 3 are the MODEs that name no coder, and START_D passes no check. -/
theorem startWithBadModeRaisesUsage : Obligations.StartWithBadModeRaisesUsage := by
  intro s hidle
  constructor
  case left =>
    rintro i m (⟨rfl, rfl⟩ | ⟨rfl, rfl⟩)
    · rw [exec_startCBad0, State.writeCtrl_startCompress_of_mode_ne hidle (by decide) (by decide)]
    · rw [exec_startCBad3, State.writeCtrl_startCompress_of_mode_ne hidle (by decide) (by decide)]
  case right =>
    intro m
    rw [exec_startD, State.writeCtrl_of_not_busy hidle]
    exact ⟨_, rfl, State.startDecompress_err _⟩

/-! ### ENC_BYTE -/

/-- C_BODY always needs a beat (45_host_interface.md R222). -/
theorem State.inReady_of_at_cBody (h : s.At .cBody) : s.inReady = true := by
  obtain ⟨hbusy, hphase⟩ := h
  simp [State.inReady, hbusy, hphase]

theorem State.acceptByte_of_at_cBody (h : s.At .cBody) (d : Byte) : s.acceptByte d = s.encByte d := by
  rw [State.acceptByte, h.2]

/-- A data beat in C_BODY is ENC_BYTE (44_stream_controller.md R182). -/
theorem exec_inData_of_at_cBody (h : s.At .cBody) (d : Byte) : exec (.inData d) s = .next (s.encByte d) := by
  rw [exec_inData_of_inReady (State.inReady_of_at_cBody h), State.acceptByte_of_at_cBody h]

/-- A match with `run` at its limit raises, whatever the byte's counter is (R307, R310). -/
theorem State.encByte_of_run_full (hmatch : s.predict = c) (hfull : s.run.toNat = 2 ^ Config.runW - 1) :
    s.encByte c = s.countIn.raise .runCounterOverflow := by
  obtain ⟨-, -, h⟩ | ⟨hroom, -⟩ | ⟨-, hroom, -⟩ | ⟨hmiss, -⟩ := s.encByte_cases c
  · exact h
  · exact absurd hfull (hroom hmatch)
  · exact absurd hfull hroom
  · exact absurd hmatch hmiss

/-- A byte whose counter is at its limit raises, on a match with room in `run` and on a miss alike (R308). -/
theorem State.encByte_of_freqOverflows (hroom : s.predict = c → s.run.toNat ≠ 2 ^ Config.runW - 1)
    (hfreq : s.freqOverflows c) : s.encByte c = s.countIn.raise .freqOverflow := by
  obtain ⟨hmatch, hfull, -⟩ | ⟨-, -, h⟩ | ⟨-, -, hnot, -⟩ | ⟨-, hnot, -⟩ := s.encByte_cases c
  · exact absurd hfull (hroom hmatch)
  · exact h
  · exact absurd hfreq hnot
  · exact absurd hfreq hnot

/-- Settles O20: both checks of ENC_BYTE raise on the counted state. -/
theorem encoderOverflowsArePrecise : Obligations.EncoderOverflowsArePrecise := by
  intro c s hat
  rw [exec_inData_of_at_cBody hat]
  constructor
  case left =>
    intro hmatch hfull
    rw [State.encByte_of_run_full hmatch hfull, State.raise_eq_failed, State.countIn]
  case right =>
    intro hroom hrank hfull
    rw [State.encByte_of_freqOverflows hroom ⟨hrank, hfull⟩, State.raise_eq_failed, State.countIn]

/-! ### Header bytes -/

theorem State.atPhase_of_at {p : Phase} (h : s.At p) (f : State → State) : s.atPhase p f = f s := if_pos h

/-- The byte at place k, below 3, is compared with MAGIC[k] (44_stream_controller.md R186; FORMAT is R302). -/
theorem State.headerMagic_eq {k : Fin 3} (hk : s.hidx.toNat = k.val) (b : Byte) :
    s.headerMagic b = if b ≠ Config.magic k then s.raise .format else { s with hidx := s.hidx + 1 } := by
  have hlt : s.hidx.toNat < 3 := hk ▸ k.isLt
  obtain rfl : k = ⟨s.hidx.toNat, hlt⟩ := Fin.ext hk.symm
  exact dif_pos hlt

/-- The byte after the tag is the fourth. -/
theorem State.not_hidx_lt_three (h : s.hidx = 3) : ¬s.hidx.toNat < 3 := by
  rw [h]
  decide

theorem State.headerMode_of_hidx_eq_three (h : s.hidx = 3) (m : AMode) :
    s.headerMode m = { s with amode := m, phase := .dFlag } := if_neg (State.not_hidx_lt_three h)

/-- A fourth byte that names no mode raises FORMAT (R303). -/
theorem State.headerBad_of_hidx_eq_three (h : s.hidx = 3) : s.headerBad = s.raise .format :=
  if_neg (State.not_hidx_lt_three h)

theorem exec_hdrMagic_of_at (h : s.At .dHdr) (b : Byte) : exec (.hdrMagic b) s = .next (s.headerMagic b) :=
  congrArg Host.Outcome.next (State.atPhase_of_at h _)

theorem exec_hdrModeRaw_of_at (h : s.At .dHdr) : exec .hdrModeRaw s = .next (s.headerMode .raw) :=
  congrArg Host.Outcome.next (State.atPhase_of_at h _)

theorem exec_hdrModeRank_of_at (h : s.At .dHdr) : exec .hdrModeRank s = .next (s.headerMode .rank) :=
  congrArg Host.Outcome.next (State.atPhase_of_at h _)

theorem exec_hdrModeBad_of_at (h : s.At .dHdr) (b : Byte) : exec (.hdrModeBad b) s = .next s.headerBad :=
  congrArg Host.Outcome.next (State.atPhase_of_at h _)

/-- Settles O24: a byte of the tag is compared at its own place, and the fourth byte by its class. -/
theorem headerBytesAreChecked : Obligations.HeaderBytesAreChecked := by
  intro s hat
  constructor
  case left =>
    intro k b hk
    rw [exec_hdrMagic_of_at hat, State.headerMagic_eq hk]
    constructor
    · intro hmagic
      rw [if_neg (not_not_intro hmagic)]
    · intro hdiffers
      rw [if_pos hdiffers, State.raise_eq_failed]
  case right =>
    intro hfourth
    refine ⟨?_, ?_, fun b => ?_⟩
    · rw [exec_hdrModeRaw_of_at hat, State.headerMode_of_hidx_eq_three hfourth]
    · rw [exec_hdrModeRank_of_at hat, State.headerMode_of_hidx_eq_three hfourth]
    · rw [exec_hdrModeBad_of_at hat, State.headerBad_of_hidx_eq_three hfourth, State.raise_eq_failed]

end Sys2Proof.Machine
end

section
/-! PROOFS of 70_reset_and_hazards.md: the reset input (R340). -/

namespace Sys2Proof.Machine

variable (s : State) {rest : List HostOp}

/-! ### What the reset input leaves -/

/-- What the host has still to offer stays with it (R340). -/
@[simp] theorem State.applyReset_host : s.applyReset.host = s.host := rfl

/-- No step that needs a beat is left to accept one (R222). -/
@[simp] theorem State.applyReset_inReady : s.applyReset.inReady = false := rfl

/-- The queue is emptied, so the block offers nothing (R223). -/
@[simp] theorem State.applyReset_outValid : s.applyReset.outValid = false := rfl

/-! ### The step that takes it -/

variable {s}

@[simp] theorem State.useTurn_host : s.useTurn.host = s.host := by rw [State.useTurn_eq]

theorem step_of_nextAgent_host (h : s.nextAgent = .host) : step s = hostStep s.useTurn := by
  rw [step, h]

theorem hostStep_rst (h : s.host = .rst :: rest) :
    hostStep s = .next ({ s with host := rest } : State).applyReset := by
  rw [hostStep, h]
  rfl

/-- The step in which the reset input takes effect, whatever the block is doing. -/
theorem step_rst (hturn : s.nextAgent = .host) (hhost : s.host = .rst :: rest) :
    step s = .next ({ s.useTurn with host := rest } : State).applyReset := by
  rw [step_of_nextAgent_host hturn, hostStep_rst (State.useTurn_host.trans hhost)]

/-- Settles O2: the next state is `applyReset` of the state with the reset input taken off the host's list; it takes
every element R340 gives a value from `State.reset`, and only the host's list and the ports from the state before. -/
theorem resetInputAbandonsTheStream : Obligations.ResetInputAbandonsTheStream := by
  intro s rest hturn hhost
  exact ⟨_, step_rst hturn hhost, rfl, rfl, rfl, rfl, rfl, rfl, rfl, rfl, rfl, rfl,
    State.applyReset_inReady _, State.applyReset_outValid _, State.applyReset_host _⟩

end Sys2Proof.Machine
end

section
/-! PROOFS of 48_bitio_vlc.md and 30_encoding.md R74: the variable-length code. The smallest value of each class carries
the arithmetic; the loops of PutVLC and GetVLC are followed class by class. -/

namespace Sys2Proof

open Sys2Proof.Claims

/-- The smallest value of class k at width B (R74). -/
def vlcBase (B k : Nat) : Nat := 2 ^ B * (2 ^ k - 1)

@[simp] theorem vlcBase_zero (B : Nat) : vlcBase B 0 = 0 := by simp [vlcBase]

/-- Class k holds 2^(B + k) values. -/
theorem vlcBase_succ (B k : Nat) : vlcBase B (k + 1) = vlcBase B k + 2 ^ (B + k) := by
  have hpos := Nat.one_le_two_pow (n := k)
  have hfactor : 2 ^ (k + 1) - 1 = 2 ^ k - 1 + 2 ^ k := by omega
  rw [vlcBase, vlcBase, hfactor, pow_add, Nat.mul_add]

/-- One round of the loops takes the class down and the width up. -/
theorem vlcBase_succ_width (B k : Nat) : vlcBase B (k + 1) = 2 ^ B + vlcBase (B + 1) k := by
  have hpos := Nat.one_le_two_pow (n := k)
  have hfactor : 2 ^ (k + 1) - 1 = 1 + 2 * (2 ^ k - 1) := by omega
  rw [vlcBase, vlcBase, hfactor, Nat.mul_add, Nat.mul_one, Nat.pow_succ, Nat.mul_assoc]

theorem vlcBase_strictMono (B : Nat) : StrictMono (vlcBase B) :=
  strictMono_nat_of_lt_succ fun k => by
    rw [vlcBase_succ]
    exact Nat.lt_add_of_pos_right (Nat.two_pow_pos _)

theorem inClass_iff {k n B : Nat} : inClass k n B ↔ vlcBase B k ≤ n ∧ n < vlcBase B (k + 1) := Iff.rfl

theorem inClass_zero {n B : Nat} : inClass 0 n B ↔ n < 2 ^ B := by
  simp [inClass_iff, vlcBase_succ]

theorem inClass_succ {k n B : Nat} : inClass (k + 1) n B ↔ 2 ^ B ≤ n ∧ inClass k (n - 2 ^ B) (B + 1) := by
  rw [inClass_iff, inClass_iff, vlcBase_succ_width, vlcBase_succ_width]
  omega

/-- The suffix of a value of class k is a field of B + k bits. -/
theorem inClass_add {k v B : Nat} : inClass k (vlcBase B k + v) B ↔ v < 2 ^ (B + k) := by
  rw [inClass_iff, vlcBase_succ]
  omega

theorem exists_inClass (n B : Nat) : ∃ k, inClass k n B := by
  induction n using Nat.strong_induction_on generalizing B with
  | _ n ih =>
    by_cases h : n < 2 ^ B
    · exact ⟨0, inClass_zero.mpr h⟩
    · have hpos := Nat.two_pow_pos B
      obtain ⟨k, hk⟩ := ih (n - 2 ^ B) (by omega) (B + 1)
      exact ⟨k + 1, inClass_succ.mpr ⟨by omega, hk⟩⟩

/-- A smaller value is of no later class. -/
theorem inClass_mono {j k m n B : Nat} (hj : inClass j m B) (hk : inClass k n B) (hmn : m ≤ n) : j ≤ k :=
  Nat.lt_succ_iff.mp ((vlcBase_strictMono B).lt_iff_lt.mp (hj.1.trans_lt (hmn.trans_lt hk.2)))

theorem inClass_unique {j k n B : Nat} (hj : inClass j n B) (hk : inClass k n B) : j = k :=
  le_antisymm (inClass_mono hj hk le_rfl) (inClass_mono hk hj le_rfl)

/-- A class is no greater than its values. -/
theorem inClass_le {k n B : Nat} (h : inClass k n B) : k ≤ n := (vlcBase_strictMono B).le_apply.trans h.1

/-! ### Writing -/

theorem vlcCode_eq (k n B : Nat) :
    vlcCode k n B = List.replicate k true ++ false :: bitsOfNat (B + k) (n - vlcBase B k) := rfl

@[simp] theorem vlcCode_length (k n B : Nat) : (vlcCode k n B).length = 2 * k + 1 + B := by
  simp only [vlcCode_eq, List.length_append, List.length_replicate, List.length_cons, bitsOfNat_length]
  omega

/-- The loop of PutVLC puts the closed form, given a round for each one-bit and one more. -/
theorem vlcLoop_eq_vlcCode {k fuel n B : Nat} (hfuel : k < fuel) (hclass : inClass k n B) :
    vlcLoop fuel n B = vlcCode k n B := by
  induction k generalizing fuel n B with
  | zero =>
    obtain ⟨f, rfl⟩ := Nat.exists_eq_add_of_lt hfuel
    have hlast : ¬2 ^ B ≤ n := Nat.not_le.mpr (inClass_zero.mp hclass)
    simp [vlcLoop, vlcCode_eq, hlast]
  | succ k ih =>
    obtain ⟨f, rfl⟩ := Nat.exists_eq_add_of_lt hfuel
    obtain ⟨hmore, hrest⟩ := inClass_succ.mp hclass
    have hvalue : n - vlcBase B (k + 1) = n - 2 ^ B - vlcBase (B + 1) k := by
      rw [vlcBase_succ_width, Nat.sub_add_eq]
    rw [vlcLoop, if_pos hmore, ih (by omega) hrest, vlcCode_eq, vlcCode_eq, hvalue, List.replicate_succ,
      List.cons_append, Nat.add_right_comm, Nat.add_assoc B k 1]

theorem vlcBits_eq_vlcCode {k n B : Nat} (h : inClass k n B) : vlcBits n B = vlcCode k n B :=
  vlcLoop_eq_vlcCode (Nat.lt_succ_of_le (inClass_le h)) h

/-- Settles O42: the smallest values of the classes rise strictly, and each round of the loop takes the class down by
one. -/
theorem vlcLoopIsTheClosedForm : Obligations.VlcLoopIsTheClosedForm := by
  intro n B
  obtain ⟨k, hk⟩ := exists_inClass n B
  refine ⟨⟨k, hk, fun j hj => inClass_unique hj hk⟩, fun j hj => ?_⟩
  rw [vlcBits_eq_vlcCode hj]
  exact ⟨rfl, vlcCode_length j n B⟩

/-! ### Reading -/

/-- k more one-bits pass the limit check, from the value n and width len (R257). -/
def underLimit (kind : VlcKind) : Nat → Nat → Nat → Prop
  | _, _, 0 => True
  | n, len, k + 1 => vlcOverLimit kind (n + 2 ^ len) (len + 1) = false ∧ underLimit kind (n + 2 ^ len) (len + 1) k

/-- The limit of a run code is its 32nd one-bit. -/
theorem underLimit_runLen {n len k : Nat} (hlen : len ≤ 31) : underLimit .runLen n len k ↔ len + k ≤ 31 := by
  induction k generalizing n len with
  | zero => simpa [underLimit] using hlen
  | succ k ih =>
    have hlimit : vlcOverLimit .runLen (n + 2 ^ len) (len + 1) = false ↔ len + 1 ≤ 31 := by
      simp only [vlcOverLimit, Config.runW, beq_eq_false_iff_ne]
      omega
    rw [underLimit, hlimit]
    constructor
    · rintro ⟨hle, hmore⟩
      have := (ih hle).mp hmore
      omega
    · exact fun h => ⟨by omega, (ih (by omega)).mpr (by omega)⟩

/-- The limit of a rank code is its sixth one-bit. -/
theorem underLimit_rank (k : Nat) : underLimit .rank 0 3 k ↔ k ≤ 5 := by
  by_cases h : k ≤ 5
  · interval_cases k <;> simp [underLimit, vlcOverLimit, Config.rankEos]
  · obtain ⟨j, rfl⟩ := Nat.exists_eq_add_of_le' (Nat.not_le.mp h)
    simp [underLimit, vlcOverLimit, Config.rankEos]

/-- GetVLC reads the one-bits of a code. -/
theorem getVLC_ones {kind : VlcKind} {n len k : Nat} (h : underLimit kind n len k) (r : List Bool) :
    getVLC kind n len (List.replicate k true ++ r) = getVLC kind (n + vlcBase len k) (len + k) r := by
  induction k generalizing n len with
  | zero => simp
  | succ k ih =>
    obtain ⟨hone, hmore⟩ := h
    rw [List.replicate_succ, List.cons_append, getVLC, hone, if_neg Bool.false_ne_true, ih hmore,
      vlcBase_succ_width, Nat.add_assoc n, Nat.add_right_comm len, Nat.add_assoc len]

/-- GetVLC rejects the one-bit past the limit, before it reads on. -/
theorem getVLC_ones_over {kind : VlcKind} {n len k : Nat} (h : underLimit kind n len k)
    (hover : vlcOverLimit kind (n + vlcBase len (k + 1)) (len + (k + 1)) = true) (r : List Bool) :
    getVLC kind n len (List.replicate (k + 1) true ++ r) = .bad r := by
  rw [List.replicate_succ', List.append_assoc, getVLC_ones h, List.singleton_append, getVLC]
  rw [vlcBase_succ, ← Nat.add_assoc] at hover
  exact if_pos hover

/-- GetVLC reads a code of class k with suffix v. -/
theorem getVLC_code {kind : VlcKind} {n len k v : Nat} (h : underLimit kind n len k) (hv : v < 2 ^ (len + k))
    (rest : List Bool) :
    getVLC kind n len (List.replicate k true ++ false :: (bitsOfNat (len + k) v ++ rest)) =
      .got (n + vlcBase len k + v, len + k) rest := by
  rw [getVLC_ones h, getVLC, getBits_bitsOfNat_of_lt hv]

/-- What GetVLC can do: the bits run out, or they begin with a code, or with one one-bit more than the limit allows. -/
theorem getVLC_cases (kind : VlcKind) (n len : Nat) (bs : List Bool) :
    getVLC kind n len bs = .wait ∨
    (∃ k v rest, underLimit kind n len k ∧ v < 2 ^ (len + k) ∧
      bs = List.replicate k true ++ false :: (bitsOfNat (len + k) v ++ rest) ∧
      getVLC kind n len bs = .got (n + vlcBase len k + v, len + k) rest) ∨
    (∃ k rest, underLimit kind n len k ∧ ¬underLimit kind n len (k + 1) ∧
      bs = List.replicate (k + 1) true ++ rest ∧ getVLC kind n len bs = .bad rest) := by
  induction bs generalizing n len with
  | nil => exact .inl rfl
  | cons b r ih =>
    cases b with
    | false =>
      obtain ⟨-, hg⟩ | ⟨v, hv, hr, hg⟩ := getBits_cases len 0 r
      · exact .inl (by rw [getVLC, hg])
      · refine .inr (.inl ⟨0, v, r.drop len, trivial, hv, congrArg (false :: ·) hr, ?_⟩)
        rw [getVLC, hg]
        simp
    | true =>
      by_cases hone : vlcOverLimit kind (n + 2 ^ len) (len + 1) = true
      · refine .inr (.inr ⟨0, r, trivial, fun h => ?_, rfl, by rw [getVLC, if_pos hone]⟩)
        exact Bool.false_ne_true (h.1.symm.trans hone)
      · have hstep : getVLC kind n len (true :: r) = getVLC kind (n + 2 ^ len) (len + 1) r := by
          rw [getVLC, if_neg hone]
        have hpass := Bool.not_eq_true _ ▸ hone
        have hlen : ∀ k, len + (k + 1) = len + 1 + k := fun k => by omega
        rw [hstep]
        obtain hw | ⟨k, v, rest, hlim, hv, hr, hg⟩ | ⟨k, rest, hlim, hover, hr, hg⟩ := ih (n + 2 ^ len) (len + 1)
        · exact .inl hw
        · refine .inr (.inl ⟨k + 1, v, rest, ⟨hpass, hlim⟩, hlen k ▸ hv, ?_, ?_⟩)
          · rw [hlen, List.replicate_succ, List.cons_append, ← hr]
          · rw [hg, vlcBase_succ_width, ← hlen k, ← Nat.add_assoc n]
        · refine .inr (.inr ⟨k + 1, rest, ⟨hpass, hlim⟩, fun h => hover h.2, ?_, hg⟩)
          rw [List.replicate_succ, List.cons_append, ← hr]

/-- Settles O44: 31 and 5 one-bits are the most that pass; where no zero follows, GetVLC waits. -/
theorem vlcLimitsAreOnTheExactBit : Obligations.VlcLimitsAreOnTheExactBit := by
  refine ⟨fun rest => ?_, fun rest => ?_, fun n hn => ?_, fun n hn => ?_⟩
  · exact getVLC_ones_over ((underLimit_runLen (by decide)).mpr (by decide)) (by decide) rest
  · exact getVLC_ones_over ((underLimit_rank 5).mpr le_rfl) (by decide) rest
  · have h := getVLC_ones (n := 0) ((underLimit_runLen (Nat.zero_le _)).mpr (by omega : 0 + n ≤ 31)) []
    rwa [List.append_nil, getVLC] at h
  · have h := getVLC_ones ((underLimit_rank n).mpr hn) []
    rwa [List.append_nil, getVLC] at h

/-! ### Reading and writing -/

/-- GetVLC reads back what PutVLC writes, when the value's class passes the limit. -/
theorem getVLC_vlcCode {kind : VlcKind} {k n B : Nat} (hlim : underLimit kind 0 B k) (hclass : inClass k n B)
    (rest : List Bool) : getVLC kind 0 B (vlcCode k n B ++ rest) = .got (n, B + k) rest := by
  obtain ⟨v, rfl⟩ := Nat.exists_eq_add_of_le (inClass_iff.mp hclass).1
  rw [vlcCode_eq, List.append_assoc, List.cons_append, Nat.add_sub_cancel_left,
    getVLC_code hlim (inClass_add.mp hclass), Nat.zero_add]

/-- The class of a run value that fits the counter passes the limit. -/
theorem underLimit_of_run {k n : Nat} (hclass : inClass k n 0) (hn : n < 2 ^ 32 - 1) : underLimit .runLen 0 0 k := by
  have hk : k < 32 := (vlcBase_strictMono 0).lt_iff_lt.mp (hclass.1.trans_lt hn)
  exact (underLimit_runLen (by decide)).mpr (by omega)

/-- The class of a rank value up to the end marker passes the limit. -/
theorem underLimit_of_rank {k n : Nat} (hclass : inClass k n 3) (hn : n ≤ 256) : underLimit .rank 0 3 k := by
  have hk : k < 6 := (vlcBase_strictMono 3).lt_iff_lt.mp (hclass.1.trans_lt (hn.trans_lt (by decide)))
  exact (underLimit_rank k).mpr (by omega)

theorem bitsOfNat_inj {n u v : Nat} (hu : u < 2 ^ n) (hv : v < 2 ^ n) (h : bitsOfNat n u = bitsOfNat n v) :
    u = v := by
  have hread := getBits_bitsOfNat_of_lt hu []
  rw [h, getBits_bitsOfNat_of_lt hv] at hread
  exact ((Get.got.injEq ..).mp hread).1.symm

/-- The number of one-bits before the first zero is the code's class. -/
theorem replicate_true_append_inj {j k : Nat} {x y : List Bool}
    (h : List.replicate j true ++ false :: x = List.replicate k true ++ false :: y) : j = k ∧ x = y := by
  induction j generalizing k with
  | zero => cases k <;> simp_all [List.replicate_succ]
  | succ j ih =>
    cases k with
    | zero => simp [List.replicate_succ] at h
    | succ k =>
      simp only [List.replicate_succ, List.cons_append, List.cons.injEq, true_and] at h
      exact ⟨congrArg (· + 1) (ih h).1, (ih h).2⟩

/-- No code is the beginning of another. -/
theorem vlcCode_beginning {j k m n B : Nat} {rest : List Bool} (hj : inClass j m B) (hk : inClass k n B)
    (h : vlcCode j m B = vlcCode k n B ++ rest) : m = n ∧ rest = [] := by
  rw [vlcCode_eq, vlcCode_eq, List.append_assoc, List.cons_append] at h
  obtain ⟨rfl, hbits⟩ := replicate_true_append_inj h
  have hrest : rest = [] := by
    have := congrArg List.length hbits
    simp only [List.length_append, bitsOfNat_length] at this
    exact List.length_eq_zero_iff.mp (by omega)
  subst hrest
  obtain ⟨u, rfl⟩ := Nat.exists_eq_add_of_le (inClass_iff.mp hj).1
  obtain ⟨v, rfl⟩ := Nat.exists_eq_add_of_le (inClass_iff.mp hk).1
  rw [List.append_nil, Nat.add_sub_cancel_left, Nat.add_sub_cancel_left] at hbits
  exact ⟨congrArg _ (bitsOfNat_inj (inClass_add.mp hj) (inClass_add.mp hk) hbits), rfl⟩

/-- Settles O43: a code's one-bits tell its class and its length, and the suffix tells the value inside the class. -/
theorem vlcIsInvertible : Obligations.VlcIsInvertible := by
  refine ⟨fun n rest hn => ?_, fun n rest hn => ?_, fun B m n rest h => ?_, fun B m n hmn => ?_⟩
  · obtain ⟨k, hk⟩ := exists_inClass n 0
    exact ⟨_, vlcBits_eq_vlcCode hk ▸ getVLC_vlcCode (underLimit_of_run hk hn) hk rest⟩
  · obtain ⟨k, hk⟩ := exists_inClass n 3
    exact ⟨_, vlcBits_eq_vlcCode hk ▸ getVLC_vlcCode (underLimit_of_rank hk hn) hk rest⟩
  · obtain ⟨j, hj⟩ := exists_inClass m B
    obtain ⟨k, hk⟩ := exists_inClass n B
    rw [vlcBits_eq_vlcCode hj, vlcBits_eq_vlcCode hk] at h
    exact vlcCode_beginning hj hk h
  · obtain ⟨j, hj⟩ := exists_inClass m B
    obtain ⟨k, hk⟩ := exists_inClass n B
    have hle := inClass_mono hj hk hmn.le
    rw [vlcBits_eq_vlcCode hj, vlcBits_eq_vlcCode hk, vlcCode_length, vlcCode_length]
    omega

end Sys2Proof
end

section
/-! PROOFS of 30_encoding.md R71 to R81: the tokens of a stream and their codes, and the host's operations. -/

namespace Sys2Proof

open Sys2Proof.Claims

/-! ### Flag tokens -/

/-- A field looks at the low bits of its value only. -/
theorem bitsOfNat_congr {n u v : Nat} (h : ∀ i, i < n → u.testBit i = v.testBit i) : bitsOfNat n u = bitsOfNat n v := by
  induction n with
  | zero => rfl
  | succ n ih => rw [bitsOfNat, bitsOfNat, h n n.lt_succ_self, ih fun i hi => h i (by omega)]

theorem bitsOfNat_mod (n v : Nat) : bitsOfNat n (v % 2 ^ n) = bitsOfNat n v :=
  bitsOfNat_congr fun i hi => by simp [Nat.testBit_mod_two_pow, hi]

theorem f1Bits_mod (k s : Nat) : f1Bits k (s % 2 ^ k) = f1Bits k s := by rw [f1Bits, f1Bits, bitsOfNat_mod]

/-- The flag token of class k with suffix s has the code f1Bits k s (R73). -/
theorem encode_f1OfClass {k : Nat} (hk : k < 32) (s : Nat) : encode (f1OfClass k s) = .flag (f1Bits k s) := by
  interval_cases k
  · rfl
  all_goals exact congrArg Code.flag (f1Bits_mod _ s)

theorem f1OfClass_wellFormed (k s : Nat) : (f1OfClass k s).wellFormed = true := by
  unfold f1OfClass
  split <;> rfl

/-- A flag token is F0, an F1 of some class, or RUN_OVF. -/
theorem flag_token_cases {i : Instr} {bits : List Bool} (h : encode i = .flag bits) :
    (i = .f0 ∧ bits = [false]) ∨ (i = .runOvf ∧ bits = List.replicate 33 true) ∨
    ∃ k s, k < 32 ∧ s < 2 ^ k ∧ i = f1OfClass k s ∧ bits = f1Bits k s := by
  cases i
  case f0 => exact .inl ⟨rfl, (Code.flag.inj h).symm⟩
  case runOvf => exact .inr (.inl ⟨rfl, (Code.flag.inj h).symm⟩)
  case f1K0 => exact .inr (.inr ⟨0, 0, by decide, by decide, rfl, (Code.flag.inj h).symm⟩)
  all_goals first
    | exact Code.noConfusion h
    | exact .inr (.inr ⟨_, BitVec.toNat _, by decide, BitVec.isLt _, by simp [f1OfClass], (Code.flag.inj h).symm⟩)

theorem vlcBase_width_zero (k : Nat) : vlcBase 0 k + 1 = 2 ^ k := by
  have := Nat.one_le_two_pow (n := k)
  rw [vlcBase]
  omega

/-- The run code of class k with suffix s is the flag token of that class: the run's length is one more than the value
coded (R73). -/
theorem decodeFlag_of_getVLC_got {k s : Nat} {r rest : List Bool}
    (h : getVLC .runLen 0 0 r = .got (0 + vlcBase 0 k + s, 0 + k) rest) :
    decodeFlag (true :: r) = .got (f1OfClass k s) rest := by
  have hsuffix : vlcBase 0 k + s + 1 - 2 ^ k = s := by
    have := vlcBase_width_zero k
    omega
  rw [Nat.zero_add, Nat.zero_add] at h
  simp only [decodeFlag, getBit, h, hsuffix]

theorem decodeFlag_f1Bits {k s : Nat} (hk : k < 32) (hs : s < 2 ^ k) (rest : List Bool) :
    decodeFlag (f1Bits k s ++ rest) = .got (f1OfClass k s) rest := by
  have hlim : underLimit .runLen 0 0 k := (underLimit_runLen (by decide)).mpr (by omega)
  have hread := getVLC_code hlim ((Nat.zero_add k).symm ▸ hs) rest
  rw [f1Bits, List.replicate_succ, List.cons_append, List.cons_append, List.append_assoc, List.cons_append]
  rw [Nat.zero_add k] at hread
  exact decodeFlag_of_getVLC_got (hread.trans (by rw [Nat.zero_add k]))

theorem decodeFlag_of_getVLC_bad {r rest : List Bool} (h : getVLC .runLen 0 0 r = .bad rest) :
    decodeFlag (true :: r) = .got .runOvf rest := by
  simp only [decodeFlag, getBit, h]

theorem decodeFlag_encode {i : Instr} {bits : List Bool} (h : encode i = .flag bits) (rest : List Bool) :
    decodeFlag (bits ++ rest) = .got i rest := by
  obtain ⟨rfl, rfl⟩ | ⟨rfl, rfl⟩ | ⟨k, s, hk, hs, rfl, rfl⟩ := flag_token_cases h
  · rfl
  · exact decodeFlag_of_getVLC_bad (vlcLimitsAreOnTheExactBit.1 rest)
  · exact decodeFlag_f1Bits hk hs rest

/-- RUN_DECODE waits, or the bits begin with the code of the flag token it reads. -/
theorem decodeFlag_cases (bs : List Bool) :
    decodeFlag bs = .wait ∨ ∃ i bits rest, i.wellFormed = true ∧ encode i = .flag bits ∧ bs = bits ++ rest ∧
      decodeFlag bs = .got i rest := by
  match bs with
  | [] => exact .inl rfl
  | false :: r => exact .inr ⟨.f0, [false], r, rfl, rfl, rfl, rfl⟩
  | true :: r =>
    obtain hw | ⟨k, s, rest, hlim, hs, hr, hg⟩ | ⟨k, rest, hlim, hover, hr, hg⟩ := getVLC_cases .runLen 0 0 r
    · exact .inl (by simp only [decodeFlag, getBit, hw])
    · have hk := (underLimit_runLen (by decide)).mp hlim
      refine .inr ⟨f1OfClass k s, f1Bits k s, rest, f1OfClass_wellFormed k s, encode_f1OfClass (by omega) s, ?_,
        decodeFlag_of_getVLC_got hg⟩
      rw [hr, f1Bits, List.replicate_succ, Nat.zero_add]
      simp
    · have hk : k = 31 := by
        have hle := (underLimit_runLen (by decide)).mp hlim
        have hgt := mt (underLimit_runLen (by decide)).mpr hover
        omega
      exact .inr ⟨.runOvf, true :: List.replicate (k + 1) true, rest, rfl, hk ▸ rfl, congrArg (true :: ·) hr,
        decodeFlag_of_getVLC_bad hg⟩

/-! ### Raw tokens -/

/-- A raw token is LIT8, LITFF or EOS_RAW. -/
theorem raw_token_cases {i : Instr} {bits : List Bool} (h : encode i = .raw bits) :
    (∃ b : Byte, i = .lit8 b ∧ bits = bitsOfNat 8 b.toNat) ∨
    (i = .litFF ∧ bits = List.replicate 8 true ++ [false]) ∨ (i = .eosRaw ∧ bits = List.replicate 9 true) := by
  cases i
  case lit8 b => exact .inl ⟨b, rfl, (Code.raw.inj h).symm⟩
  case litFF => exact .inr (.inl ⟨rfl, (Code.raw.inj h).symm⟩)
  case eosRaw => exact .inr (.inr ⟨rfl, (Code.raw.inj h).symm⟩)
  all_goals exact Code.noConfusion h

theorem decodeRaw_lit8 {v : Nat} (hv : v < 2 ^ 8) (hne : v ≠ 255) (rest : List Bool) :
    decodeRaw (bitsOfNat 8 v ++ rest) = .got (.lit8 (BitVec.ofNat 8 v)) rest := by
  simp only [decodeRaw, getBits_bitsOfNat_of_lt hv]
  exact if_neg hne

theorem lit8_wellFormed {b : Byte} : (Instr.lit8 b).wellFormed = true ↔ b.toNat ≠ 255 := by
  rw [Instr.wellFormed, bne_iff_ne, ne_eq, ← BitVec.toNat_inj]
  rfl

theorem decodeRaw_encode {i : Instr} {bits : List Bool} (hwf : i.wellFormed = true) (h : encode i = .raw bits)
    (rest : List Bool) : decodeRaw (bits ++ rest) = .got i rest := by
  obtain ⟨b, rfl, rfl⟩ | ⟨rfl, rfl⟩ | ⟨rfl, rfl⟩ := raw_token_cases h
  · rw [decodeRaw_lit8 b.isLt (lit8_wellFormed.mp hwf), BitVec.ofNat_toNat, BitVec.setWidth_eq]
  · rfl
  · rfl

/-- RAW_LIT_DECODE waits, or the bits begin with the code of the raw token it reads. -/
theorem decodeRaw_cases (bs : List Bool) :
    decodeRaw bs = .wait ∨ ∃ i bits rest, i.wellFormed = true ∧ encode i = .raw bits ∧ bs = bits ++ rest ∧
      decodeRaw bs = .got i rest := by
  obtain ⟨-, hw⟩ | ⟨v, hv, hbs, -⟩ := getBits_cases 8 0 bs
  · exact .inl (by simp only [decodeRaw, hw])
  · rw [hbs]
    by_cases hff : v = 255
    · subst hff
      match bs.drop 8 with
      | [] => exact .inl rfl
      | false :: r => exact .inr ⟨.litFF, _, r, rfl, rfl, rfl, rfl⟩
      | true :: r => exact .inr ⟨.eosRaw, _, r, rfl, rfl, rfl, rfl⟩
    · refine .inr ⟨.lit8 (BitVec.ofNat 8 v), bitsOfNat 8 v, _, ?_, ?_, rfl, decodeRaw_lit8 hv hff _⟩
      · rw [lit8_wellFormed, BitVec.toNat_ofNat, Nat.mod_eq_of_lt hv]
        exact hff
      · exact congrArg Code.raw (bitsOfNat_mod 8 v)

/-! ### Rank tokens -/

/-- The rank-mode token of class k with suffix v (R75, R77). -/
def rlitOfClass : Nat → Nat → Instr
  | 0, v => .rlitK0 (BitVec.ofNat 3 v)
  | 1, v => .rlitK1 (BitVec.ofNat 4 v)
  | 2, v => .rlitK2 (BitVec.ofNat 5 v)
  | 3, v => .rlitK3 (BitVec.ofNat 6 v)
  | 4, v => .rlitK4 (BitVec.ofNat 7 v)
  | 5, v =>
    if v ≤ 7 then .rlitK5 (BitVec.ofNat 3 v) else if v = 8 then .eosRank else .badRankK5 (BitVec.ofNat 8 v)
  | _, _ => .badRankPrefix

/-- The token of a value is the one of its class and suffix. -/
theorem rankToken_eq_rlitOfClass {k v : Nat} (hk : k ≤ 5) (hv : v < 2 ^ (3 + k)) :
    rankToken (vlcBase 3 k + v) = rlitOfClass k v := by
  interval_cases k
  · have hlt : v < 8 := hv
    rw [vlcBase_zero, Nat.zero_add, rankToken, if_pos (by omega), rlitOfClass]
  · have hlt : v < 16 := hv
    change rankToken (8 + v) = _
    rw [rankToken, if_neg (by omega), if_pos (by omega), Nat.add_sub_cancel_left, rlitOfClass]
  · have hlt : v < 32 := hv
    change rankToken (24 + v) = _
    rw [rankToken, if_neg (by omega), if_neg (by omega), if_pos (by omega), Nat.add_sub_cancel_left, rlitOfClass]
  · have hlt : v < 64 := hv
    change rankToken (56 + v) = _
    rw [rankToken, if_neg (by omega), if_neg (by omega), if_neg (by omega), if_pos (by omega),
      Nat.add_sub_cancel_left, rlitOfClass]
  · have hlt : v < 128 := hv
    change rankToken (120 + v) = _
    rw [rankToken, if_neg (by omega), if_neg (by omega), if_neg (by omega), if_neg (by omega), if_pos (by omega),
      Nat.add_sub_cancel_left, rlitOfClass]
  · have hle : 248 + v ≤ 255 ↔ v ≤ 7 := by omega
    have heos : 248 + v = 256 ↔ v = 8 := by omega
    change rankToken (248 + v) = _
    rw [rankToken, if_neg (by omega), if_neg (by omega), if_neg (by omega), if_neg (by omega), if_neg (by omega),
      Nat.add_sub_cancel_left, rlitOfClass]
    simp only [hle, heos]

theorem rlitBits_mod (k v : Nat) : rlitBits k (v % 2 ^ (3 + k)) = rlitBits k v := by
  rw [rlitBits, rlitBits, bitsOfNat_mod]

/-- The rank code of class k with suffix v is the code of its token. -/
theorem encode_rlitOfClass {k v : Nat} (hk : k ≤ 5) (hv : v < 2 ^ (3 + k)) :
    encode (rlitOfClass k v) = .rank (rlitBits k v) := by
  obtain rfl | hbelow := hk.eq_or_lt
  · have hlt : v < 256 := hv
    rw [rlitOfClass]
    split_ifs with hsymbol heos
    · have hv3 : v % 2 ^ 3 = v := Nat.mod_eq_of_lt (by omega)
      exact congrArg (Code.rank ∘ rlitBits 5) ((BitVec.toNat_ofNat v 3).trans hv3)
    · rw [heos]
      rfl
    · exact congrArg Code.rank (rlitBits_mod 5 v)
  · interval_cases k <;> exact congrArg Code.rank (rlitBits_mod _ v)

theorem rlitOfClass_wellFormed {k v : Nat} (hk : k ≤ 5) (hv : v < 2 ^ (3 + k)) :
    (rlitOfClass k v).wellFormed = true := by
  obtain rfl | hbelow := hk.eq_or_lt
  · have hlt : v < 256 := hv
    rw [rlitOfClass]
    split_ifs
    · rfl
    · rfl
    · rw [Instr.wellFormed, BitVec.toNat_ofNat, Nat.mod_eq_of_lt hlt, decide_eq_true_eq]
      omega
  · interval_cases k <;> rfl

/-- A well-formed rank token is BAD_RANK_PREFIX or the one of a class and a suffix. -/
theorem rank_token_cases {i : Instr} {bits : List Bool} (hwf : i.wellFormed = true) (h : encode i = .rank bits) :
    (i = .badRankPrefix ∧ bits = List.replicate 6 true) ∨
    ∃ k v, k ≤ 5 ∧ v < 2 ^ (3 + k) ∧ i = rlitOfClass k v ∧ bits = rlitBits k v := by
  cases i
  case badRankPrefix => exact .inl ⟨rfl, (Code.rank.inj h).symm⟩
  case eosRank => exact .inr ⟨5, 8, le_rfl, by decide, rfl, (Code.rank.inj h).symm⟩
  case rlitK5 s =>
    have hs : s.toNat ≤ 7 := Nat.le_of_lt_succ s.isLt
    refine .inr ⟨5, s.toNat, le_rfl, hs.trans_lt (by decide), ?_, (Code.rank.inj h).symm⟩
    rw [rlitOfClass, if_pos hs, BitVec.ofNat_toNat, BitVec.setWidth_eq]
  case badRankK5 s =>
    have hs : 9 ≤ s.toNat := by simpa [Instr.wellFormed] using hwf
    refine .inr ⟨5, s.toNat, le_rfl, s.isLt, ?_, (Code.rank.inj h).symm⟩
    rw [rlitOfClass, if_neg (by omega), if_neg (by omega), BitVec.ofNat_toNat, BitVec.setWidth_eq]
  case rlitK0 s => exact .inr ⟨0, s.toNat, by decide, s.isLt, by simp [rlitOfClass], (Code.rank.inj h).symm⟩
  case rlitK1 s => exact .inr ⟨1, s.toNat, by decide, s.isLt, by simp [rlitOfClass], (Code.rank.inj h).symm⟩
  case rlitK2 s => exact .inr ⟨2, s.toNat, by decide, s.isLt, by simp [rlitOfClass], (Code.rank.inj h).symm⟩
  case rlitK3 s => exact .inr ⟨3, s.toNat, by decide, s.isLt, by simp [rlitOfClass], (Code.rank.inj h).symm⟩
  case rlitK4 s => exact .inr ⟨4, s.toNat, by decide, s.isLt, by simp [rlitOfClass], (Code.rank.inj h).symm⟩
  all_goals exact Code.noConfusion h

theorem decodeRank_of_getVLC_got {k v : Nat} (hk : k ≤ 5) (hv : v < 2 ^ (3 + k)) {bs rest : List Bool}
    (h : getVLC .rank 0 3 bs = .got (0 + vlcBase 3 k + v, 3 + k) rest) :
    decodeRank bs = .got (rlitOfClass k v) rest := by
  rw [Nat.zero_add] at h
  simp only [decodeRank, h, rankToken_eq_rlitOfClass hk hv]

theorem rlitBits_append (k v : Nat) (rest : List Bool) :
    rlitBits k v ++ rest = List.replicate k true ++ false :: (bitsOfNat (3 + k) v ++ rest) := by
  rw [rlitBits, List.append_assoc, List.cons_append]

theorem decodeRank_of_getVLC_bad {bs rest : List Bool} (h : getVLC .rank 0 3 bs = .bad rest) :
    decodeRank bs = .got .badRankPrefix rest := by
  simp only [decodeRank, h]

theorem decodeRank_encode {i : Instr} {bits : List Bool} (hwf : i.wellFormed = true) (h : encode i = .rank bits)
    (rest : List Bool) : decodeRank (bits ++ rest) = .got i rest := by
  obtain ⟨rfl, rfl⟩ | ⟨k, v, hk, hv, rfl, rfl⟩ := rank_token_cases hwf h
  · exact decodeRank_of_getVLC_bad (vlcLimitsAreOnTheExactBit.2.1 rest)
  · rw [rlitBits_append]
    exact decodeRank_of_getVLC_got hk hv (getVLC_code ((underLimit_rank k).mpr hk) hv rest)

/-- RANK_LIT_DECODE waits, or the bits begin with the code of the rank token it reads. -/
theorem decodeRank_cases (bs : List Bool) :
    decodeRank bs = .wait ∨ ∃ i bits rest, i.wellFormed = true ∧ encode i = .rank bits ∧ bs = bits ++ rest ∧
      decodeRank bs = .got i rest := by
  obtain hw | ⟨k, v, rest, hlim, hv, hr, hg⟩ | ⟨k, rest, hlim, hover, hr, hg⟩ := getVLC_cases .rank 0 3 bs
  · exact .inl (by simp only [decodeRank, hw])
  · have hk := (underLimit_rank k).mp hlim
    exact .inr ⟨rlitOfClass k v, rlitBits k v, rest, rlitOfClass_wellFormed hk hv, encode_rlitOfClass hk hv,
      hr.trans (rlitBits_append k v rest).symm, decodeRank_of_getVLC_got hk hv hg⟩
  · have hk : k = 5 := by
      have hle := (underLimit_rank k).mp hlim
      have hgt := mt (underLimit_rank (k + 1)).mpr hover
      omega
    exact .inr ⟨.badRankPrefix, List.replicate (k + 1) true, rest, rfl, hk ▸ rfl, hr, decodeRank_of_getVLC_bad hg⟩

/-! ### The three decoders -/

/-- Settles O47: each decoder reads the code of its token, class by class. -/
theorem tokensAreSelfDelimiting : Obligations.TokensAreSelfDelimiting := fun _ _ rest hwf =>
  ⟨fun h => decodeFlag_encode h rest, fun h => decodeRaw_encode hwf h rest, fun h => decodeRank_encode hwf h rest⟩

/-- Settles O48: what a decoder can do, it does on the code of the token it gives. -/
theorem tokenDecodersReadTheirCode : Obligations.TokenDecodersReadTheirCode := by
  intro bs rest i
  refine ⟨fun h => ?_, fun h => ?_, fun h => ?_⟩
  · obtain hw | ⟨j, bits, r, hwf, hcode, hbs, hg⟩ := decodeFlag_cases bs
    · simp [hw] at h
    · obtain ⟨rfl, rfl⟩ := Get.got.inj (hg.symm.trans h)
      exact ⟨hwf, bits, hcode, hbs⟩
  · obtain hw | ⟨j, bits, r, hwf, hcode, hbs, hg⟩ := decodeRaw_cases bs
    · simp [hw] at h
    · obtain ⟨rfl, rfl⟩ := Get.got.inj (hg.symm.trans h)
      exact ⟨hwf, bits, hcode, hbs⟩
  · obtain hw | ⟨j, bits, r, hwf, hcode, hbs, hg⟩ := decodeRank_cases bs
    · simp [hw] at h
    · obtain ⟨rfl, rfl⟩ := Get.got.inj (hg.symm.trans h)
      exact ⟨hwf, bits, hcode, hbs⟩

/-! ### The host's operations -/

/-- A CTRL word by its low four bits (R80): START is bit 0, DIR bit 1, MODE bits 3:2. -/
theorem decodeCtrl_eq (w : Word) :
    decodeCtrl w =
      if w.toNat % 2 = 0 then .cfg (BitVec.ofNat 1 (w.toNat / 2)) (BitVec.ofNat 2 (w.toNat / 4))
      else if w.toNat / 2 % 2 = 1 then .startD (BitVec.ofNat 2 (w.toNat / 4))
      else if w.toNat / 4 % 4 = 1 then .startCRaw
      else if w.toNat / 4 % 4 = 2 then .startCRank
      else if w.toNat / 4 % 4 = 0 then .startCBad0
      else .startCBad3 := by
  have hfield (i n : Nat) : w.extractLsb' i n = BitVec.ofNat n (w.toNat / 2 ^ i) := by
    apply BitVec.eq_of_toNat_eq
    rw [BitVec.extractLsb'_toNat, BitVec.toNat_ofNat, Nat.shiftRight_eq_div_pow]
  have hstart : w.getLsbD 0 = false ↔ w.toNat % 2 = 0 := by
    rw [BitVec.getLsbD, Nat.testBit_zero, decide_eq_false_iff_not]
    omega
  have hdir : w.extractLsb' 1 1 = 1 ↔ w.toNat / 2 % 2 = 1 := by
    rw [hfield, ← BitVec.toNat_inj, BitVec.toNat_ofNat]
    rfl
  have hmode (m : BitVec 2) : w.extractLsb' 2 2 = m ↔ w.toNat / 4 % 4 = m.toNat := by
    rw [hfield, ← BitVec.toNat_inj, BitVec.toNat_ofNat]
    exact Iff.rfl
  simp only [decodeCtrl, hstart, hdir, hmode]
  rw [hfield, hfield]
  rfl

theorem decode_write_ctrl {addr : BitVec 8} (h : addr.toNat < 4) (w : Word) :
    decode (.host (.write addr w)) = .ok (decodeCtrl w) := by
  rw [decode, decodeHost, decodeWrite_eq, if_pos (by omega)]

/-- Settles O9: the six commands are the branches of the CTRL word's low four bits. -/
theorem ctrlWordDependsOnLowFourBits : Obligations.CtrlWordDependsOnLowFourBits := by
  intro addr w haddr
  rw [decode_write_ctrl haddr, decodeCtrl_eq]
  refine ⟨fun h => ?_, fun h => ?_, fun h => ?_, fun h => ?_, fun h => ?_, fun h => ?_⟩
  · rw [if_neg (by omega), if_neg (by omega), if_pos (by omega)]
  · rw [if_neg (by omega), if_neg (by omega), if_neg (by omega), if_pos (by omega)]
  · rw [if_neg (by omega), if_neg (by omega), if_neg (by omega), if_neg (by omega), if_pos (by omega)]
  · rw [if_neg (by omega), if_neg (by omega), if_neg (by omega), if_neg (by omega), if_neg (by omega)]
  · rw [if_neg (by omega), if_pos (by omega)]
  · rw [if_pos h]

/-- Settles O12: the register picked is the address by words. -/
theorem registerAddressMap : Obligations.RegisterAddressMap := by
  intro addr w
  rw [decodeRead_eq, decodeWrite_eq]
  refine ⟨fun h => ?_, fun h => ?_, fun h => ?_, fun h => ?_, fun h => ?_⟩
  · simp [h]
  · simp [h]
  · simp [h]
  · simp [h]
  · rw [if_neg (by omega), if_neg (by omega), if_neg (by omega), if_neg (by omega), if_neg (by omega),
      if_neg (by omega), if_neg (by omega), if_neg (by omega)]
    exact ⟨rfl, rfl⟩

/-! #### The operations decoded are well formed -/

theorem decodeCtrl_wellFormed (w : Word) : (decodeCtrl w).wellFormed = true := by
  rw [decodeCtrl_eq]
  split_ifs <;> rfl

theorem decodeRead_wellFormed (addr : BitVec 8) : (decodeRead addr).wellFormed = true := by
  rw [decodeRead_eq]
  split_ifs
  case neg => exact decide_eq_true (show 16 ≤ addr.toNat by omega)
  all_goals rfl

theorem decodeWrite_wellFormed (addr : BitVec 8) (w : Word) : (decodeWrite addr w).wellFormed = true := by
  rw [decodeWrite_eq]
  split_ifs
  case neg => exact decide_eq_true (show 16 ≤ addr.toNat by omega)
  case pos => exact decodeCtrl_wellFormed w
  all_goals rfl

theorem decodeBeat_wellFormed (w : BitVec 9) : (decodeBeat w).wellFormed = true := by
  unfold decodeBeat
  split <;> rfl

/-- Settles O13: by the kind of access. -/
theorem everyHostOperationDecodes : Obligations.EveryHostOperationDecodes := by
  intro op hop
  cases op with
  | read addr => exact ⟨_, rfl, decodeRead_wellFormed addr⟩
  | write addr w => exact ⟨_, rfl, decodeWrite_wellFormed addr w⟩
  | beat w => exact ⟨_, rfl, decodeBeat_wellFormed w⟩
  | take => exact ⟨_, rfl, rfl⟩
  | rst => exact absurd rfl hop

/-! ### Whole encodings -/

theorem decodeCtrl_ctrlWord_cfg : ∀ dir mode, decodeCtrl (ctrlWord 0 dir mode) = .cfg dir mode := by decide

theorem decodeCtrl_ctrlWord_startD : ∀ mode, decodeCtrl (ctrlWord 1 1 mode) = .startD mode := by decide

@[simp] theorem decodeBeat_data (d : Byte) : decodeBeat (0#1 ++ d) = .inData d := by
  have hend : (0#1 ++ d).getLsbD 8 = false := by
    rw [BitVec.getLsbD_append]
    rfl
  have hdata : (0#1 ++ d).extractLsb' 0 8 = d := BitVec.extractLsb'_append_eq_right
  rw [decodeBeat, hend, hdata, if_neg Bool.false_ne_true]

@[simp] theorem decodeBeat_end (x : Byte) : decodeBeat (1#1 ++ x) = .inEnd x := by
  have hend : (1#1 ++ x).getLsbD 8 = true := by
    rw [BitVec.getLsbD_append]
    rfl
  have hdata : (1#1 ++ x).extractLsb' 0 8 = x := BitVec.extractLsb'_append_eq_right
  rw [decodeBeat, hend, hdata, if_pos rfl]

/-- The host's operation is decoded from the port signals it is sent by. -/
theorem decodeHost_encode {i : Instr} {op : HostOp} (hwf : i.wellFormed = true) (h : encode i = .host op) :
    decodeHost op = some i := by
  cases i
  case cfg dir mode =>
    obtain rfl := Code.host.inj h
    exact congrArg some (decodeCtrl_ctrlWord_cfg dir mode)
  case startD mode =>
    obtain rfl := Code.host.inj h
    exact congrArg some (decodeCtrl_ctrlWord_startD mode)
  case inData d =>
    obtain rfl := Code.host.inj h
    exact congrArg some (decodeBeat_data d)
  case inEnd x =>
    obtain rfl := Code.host.inj h
    exact congrArg some (decodeBeat_end x)
  case rdUnmapped addr =>
    have haddr : 16 ≤ addr.toNat := by simpa [Instr.wellFormed] using hwf
    obtain rfl := Code.host.inj h
    rw [decodeHost, (registerAddressMap addr 0).2.2.2.2 (by omega) |>.1]
  case wrUnmapped addr w =>
    have haddr : 16 ≤ addr.toNat := by simpa [Instr.wellFormed] using hwf
    obtain rfl := Code.host.inj h
    rw [decodeHost, (registerAddressMap addr w).2.2.2.2 (by omega) |>.2]
  case startCRaw | startCRank | startCBad0 | startCBad3 | rdCtrl | rdStatus | rdInCount | rdOutCount | wrStatus
      | wrInCount | wrOutCount | out =>
    obtain rfl := Code.host.inj h
    rfl
  all_goals exact Code.noConfusion h

theorem header_of_encode_headerMagic {i : Instr} {b : Byte} (h : encode i = .headerMagic b) : i = .hdrMagic b := by
  cases i
  case hdrMagic b => exact congrArg _ (Code.headerMagic.inj h)
  all_goals exact Code.noConfusion h

theorem decodeMode_of_encode_headerMode {i : Instr} {b : Byte} (hwf : i.wellFormed = true)
    (h : encode i = .headerMode b) : decodeMode b = i := by
  cases i
  case hdrModeBad b =>
    obtain rfl := Code.headerMode.inj h
    obtain ⟨hraw, hrank⟩ : b ≠ 1 ∧ b ≠ 2 := by simpa [Instr.wellFormed] using hwf
    rw [decodeMode, if_neg hraw, if_neg hrank]
  case hdrModeRaw | hdrModeRank =>
    obtain rfl := Code.headerMode.inj h
    rfl
  all_goals exact Code.noConfusion h

theorem decode_padding_of_encode {i : Instr} {bits : List Bool} (h : encode i = .padding bits) :
    decode (.padding bits) = .ok i := by
  cases i
  case pad n =>
    obtain rfl := Code.padding.inj h
    have hlen : (List.replicate n.val false).length = n.val := List.length_replicate ..
    simp only [decode, hlen, n.isLt, dif_pos]
  all_goals exact Code.noConfusion h

/-- Settles O46: by the place the code stands at. -/
theorem decodeInvertsEncode : Obligations.DecodeInvertsEncode := by
  intro i hwf
  cases h : encode i with
  | host op => rw [decode, decodeHost_encode hwf h]
  | headerMagic b => rw [decode, header_of_encode_headerMagic h]
  | headerMode b => rw [decode, decodeMode_of_encode_headerMode hwf h]
  | flag bits => rw [decode, ← bits.append_nil, decodeFlag_encode h, wholeToken]
  | raw bits => rw [decode, ← bits.append_nil, decodeRaw_encode hwf h, wholeToken]
  | rank bits => rw [decode, ← bits.append_nil, decodeRank_encode hwf h, wholeToken]
  | padding bits => exact decode_padding_of_encode h

/-- Settles O49: each word is decoded by evaluation. -/
theorem sampleWordsDecode : Obligations.SampleWordsDecode := ⟨rfl, rfl, rfl, rfl, rfl, rfl, rfl, rfl⟩

end Sys2Proof
end

section
/-! PROOFS of 40_context_predictor.md and 43_rank_tracker.md: ADVANCE, PREDICT, and the two rank operations. -/

namespace Sys2Proof.Machine

open Sys2Proof.Claims

/-! ### The predictor -/

/-- ADVANCE as numbers (R102). -/
theorem nextCtx_toNat (x : Ctx) (c : Byte) : (nextCtx x c).toNat = (x.toNat * 2 ^ 5 + c.toNat) % 2 ^ 20 := by
  have hx := x.isLt
  have hc := c.isLt
  simp only [nextCtx, BitVec.toNat_setWidth, BitVec.toNat_add, BitVec.toNat_shiftLeft, Nat.shiftLeft_eq]
  simp only [Config.ctxBits, Config.ctxShift] at *
  omega

/-- Settles O37: four additions shift everything older out of the 20 bits. -/
theorem advanceIsShiftAndAdd : Obligations.AdvanceIsShiftAndAdd := by
  refine ⟨nextCtx_toNat, fun x c1 c2 c3 c4 => ?_⟩
  simp only [nextCtx_toNat]
  omega

/-- The ContextBuffer after a list of UPDATEs, newest first. -/
def Memory.updated (updates : List (Ctx × Byte)) : List Host.Cell :=
  updates.foldr (fun u m => Memory.write m u.1.toNat u.2) []

theorem Memory.updated_wf (updates : List (Ctx × Byte)) : Memory.wf (Memory.updated updates) = true := by
  induction updates with
  | nil => exact Memory.wf_nil
  | cons u r ih => exact Memory.write_wf ih u.1.isLt u.2

/-- A slot holds the byte of its newest UPDATE. -/
theorem Memory.read_updated (updates : List (Ctx × Byte)) (x : Ctx) :
    Memory.read (Memory.updated updates) x.toNat = ((updates.find? (fun u => u.1 == x)).map (·.2)).getD 0 := by
  induction updates with
  | nil => rfl
  | cons u r ih =>
    have hread := Memory.read_write (Memory.updated_wf r) u.1.toNat x.toNat u.2
    change Memory.read (Memory.write (Memory.updated r) u.1.toNat u.2) x.toNat = _
    rw [hread, ih]
    by_cases h : u.1 = x
    · simp [h]
    · have hne : x.toNat ≠ u.1.toNat := fun hn => h (BitVec.eq_of_toNat_eq hn.symm)
      simp [h, hne]

/-- Settles O38: by induction on the UPDATEs, newest first. -/
theorem predictionIsTheLastUpdate : Obligations.PredictionIsTheLastUpdate := by
  intro s updates cb x
  have hcb : cb = Memory.updated updates.reverse := List.foldl_eq_foldr_reverse ..
  change Memory.read cb x.toNat = _
  rw [hcb, Memory.read_updated]

/-! ### The rank table -/

variable {t : RankTable} {c : Byte}

/-- A permutation begins with its front. -/
theorem RankTable.Perm.order_eq_front_cons (h : t.Perm) : ∃ r, t.order = t.front :: r := by
  have hne : t.order ≠ [] := List.ne_nil_of_length_pos (h.1 ▸ by decide)
  obtain ⟨a, r, har⟩ := List.exists_cons_of_ne_nil hne
  exact ⟨r, by rw [RankTable.front, RankTable.symbolAt, har, List.getD_cons_zero]⟩

/-- Moving the front to the front changes nothing. -/
theorem RankTable.Perm.moveToFront_front_eq (h : t.Perm) : t.moveToFront t.front = t := by
  obtain ⟨r, hr⟩ := h.order_eq_front_cons
  have horder : (t.moveToFront t.front).order = t.order := by
    rw [moveToFront_order, RankTable.rankOf, hr, List.idxOf_cons_self, List.eraseIdx_cons_zero]
  calc t.moveToFront t.front = { t with order := (t.moveToFront t.front).order } := rfl
    _ = t := by rw [horder]

/-- OnMatchedByte where the anchor is the front (R166): the bumped symbol comes to the front unless it
counts less. -/
theorem RankTable.Perm.onMatchedByte_eq (h : t.Perm) (hfront : t.anchor = t.front) (c : Byte) :
    t.onMatchedByte c =
      if ((t.bump c).freqOf t.front).toNat ≤ ((t.bump c).freqOf c).toNat
      then { (t.bump c).moveToFront c with anchor := c } else t.bump c := by
  rw [RankTable.onMatchedByte, bump_anchor, hfront]
  split_ifs with hle hmove hmove
  · rfl
  · obtain rfl : t.front = c := not_not.mp hmove
    have hstays := (h.bump t.front).moveToFront_front_eq
    exact congrArg (fun u : RankTable => { u with anchor := t.front }) hstays.symm
  · exact absurd hfront.symm hmove
  · rfl

/-- OnLiteralByte always leaves its symbol as the anchor: it has just been moved to the front (R166). -/
theorem RankTable.onLiteralByte_eq (t : RankTable) (c : Byte) :
    t.onLiteralByte c = { (t.moveToFront c).bump c with anchor := c } :=
  if_pos fun h => h.2 rfl

theorem RankTable.Perm.onMatchedByte_anchor (h : t.Perm) (hfront : t.anchor = t.front) (c : Byte) :
    (t.onMatchedByte c).anchor = (t.onMatchedByte c).front := by
  rw [h.onMatchedByte_eq hfront]
  split_ifs
  · rfl
  · exact hfront

theorem RankTable.onLiteralByte_anchor (t : RankTable) (c : Byte) :
    (t.onLiteralByte c).anchor = (t.onLiteralByte c).front := by
  rw [RankTable.onLiteralByte_eq]
  rfl

theorem RankTable.initial_anchor : RankTable.initial.anchor = RankTable.initial.front := rfl

/-- Settles O40: both operations leave their anchor at the front, so the anchor is the front throughout. -/
theorem anchorIsAlwaysTheFront : Obligations.AnchorIsAlwaysTheFront :=
  ⟨RankTable.initial_perm, RankTable.initial_anchor, fun t c h hfront =>
    ⟨h.onMatchedByte c, h.onMatchedByte_anchor hfront c, h.onLiteralByte c, t.onLiteralByte_anchor c,
      h.onMatchedByte_eq hfront c, t.onLiteralByte_eq c⟩⟩

theorem RankTable.freqOf_onMatchedByte (t : RankTable) (c x : Byte) :
    (t.onMatchedByte c).freqOf x = (t.bump c).freqOf x := by
  obtain h | h | ⟨a, h⟩ := t.onMatchedByte_cases c <;> rw [h] <;> rfl

theorem RankTable.freqOf_onLiteralByte (t : RankTable) (c x : Byte) :
    (t.onLiteralByte c).freqOf x = (t.bump c).freqOf x := by
  rw [RankTable.onLiteralByte_eq]
  rfl

/-- Below the limit a bump adds 1 to its symbol's counter, and to no other. -/
theorem RankTable.freqOf_bump_toNat (h : (t.freqOf c).toNat ≠ 2 ^ 32 - 1) (x : Byte) :
    ((t.bump c).freqOf x).toNat = (t.freqOf x).toNat + (if x = c then 1 else 0) := by
  rw [RankTable.freqOf_bump]
  split_ifs with hx
  · have hlt := (t.freqOf c).isLt
    simp only [Config.freqW] at hlt
    rw [hx, BitVec.toNat_add, Nat.mod_eq_of_lt]
    · rfl
    · change _ + 1 < 2 ^ 32
      omega
  · rfl

/-- Settles O41: each operation bumps its symbol's counter once. -/
theorem frequencyGrowsByOne : Obligations.FrequencyGrowsByOne := fun t c x h =>
  ⟨by rw [RankTable.freqOf_onMatchedByte, RankTable.freqOf_bump_toNat h],
    by rw [RankTable.freqOf_onLiteralByte, RankTable.freqOf_bump_toNat h]⟩

end Sys2Proof.Machine
end

section
/-! PROOFS of 48_bitio_vlc.md: the bit writer (R250 to R253), and what ENC_BYTE and ENC_END write
(44_stream_controller.md R182, R183). -/

namespace Sys2Proof.Machine

open Sys2Proof.Claims

variable {s t : State}

/-- States that agree in every field are equal. -/
theorem State.ext_fields (hcb : s.cb = t.cb) (hctx : s.ctx = t.ctx) (hrun : s.run = t.run) (hrank : s.rank = t.rank)
    (hamode : s.amode = t.amode) (hadir : s.adir = t.adir) (hrem : s.rem = t.rem) (hphase : s.phase = t.phase)
    (hhidx : s.hidx = t.hidx) (hacc : s.acc = t.acc) (hnacc : s.nacc = t.nacc) (hcur : s.cur = t.cur)
    (hnleft : s.nleft = t.nleft) (houtq : s.outq = t.outq) (hdir : s.ctrlDir = t.ctrlDir)
    (hmode : s.ctrlMode = t.ctrlMode) (hst : s.st = t.st) (herr : s.err = t.err) (hin : s.inCount = t.inCount)
    (hout : s.outCount = t.outCount) (hcsr : s.csrRdata = t.csrRdata) (htaken : s.taken = t.taken)
    (htok : s.tok = t.tok) (hhdr : s.hdrByte = t.hdrByte) (hhost : s.host = t.host) (hturns : s.turns = t.turns) :
    s = t := by
  cases s
  cases t
  simp_all

/-! ### One bit -/

theorem getElem?_bitsOfNat {n j : Nat} (h : j < n) (v : Nat) : (bitsOfNat n v)[j]? = some (v.testBit (n - 1 - j)) := by
  induction n generalizing j with
  | zero => omega
  | succ n ih =>
    cases j with
    | zero => simp [bitsOfNat]
    | succ j =>
      rw [bitsOfNat, List.getElem?_cons_succ, ih (by omega)]
      congr 2
      omega

@[simp] theorem byteBits_length (b : Byte) : (byteBits b).length = 8 := bitsOfNat_length 8 _

theorem getElem?_byteBits {j : Nat} (h : j < 8) (b : Byte) : (byteBits b)[j]? = some (b.getLsbD (7 - j)) :=
  getElem?_bitsOfNat h b.toNat

theorem getLsbD_setBit {i j : Nat} (hj : j < 8) (v : Byte) (b : Bool) :
    (setBit v i b).getLsbD j = if j = i then b else v.getLsbD j := by
  have hone : (1#8 <<< i).getLsbD j = decide (j = i) := by
    rw [BitVec.getLsbD_shiftLeft, BitVec.getLsbD_one]
    grind
  cases b with
  | false =>
    rw [setBit, if_neg Bool.false_ne_true, BitVec.getLsbD_and, BitVec.getLsbD_not, hone]
    by_cases h : j = i <;> simp [h, hj]
  | true =>
    rw [setBit, if_pos rfl, BitVec.getLsbD_or, hone]
    by_cases h : j = i <;> simp [h]

/-- The bit that enters takes the place after the filled ones (20_memory.md R54). -/
theorem take_byteBits_setBit {n : Nat} (hn : n < 8) (v : Byte) (b : Bool) :
    (byteBits (setBit v (packIndex Config.packOrder n) b)).take (n + 1) = (byteBits v).take n ++ [b] := by
  have hplace : packIndex Config.packOrder n = 7 - n := rfl
  rw [hplace, List.take_add_one, getElem?_byteBits hn, getLsbD_setBit (by omega), if_pos rfl]
  congr 1
  refine List.ext_getElem? fun j => ?_
  rw [List.getElem?_take, List.getElem?_take]
  split_ifs with hj
  · rw [getElem?_byteBits (by omega), getElem?_byteBits (by omega), getLsbD_setBit (by omega), if_neg (by omega)]
  · rfl

theorem written_putBit (b : Bool) (s : State) : written (s.putBit b) = written s ++ [b] := by
  obtain ⟨hroom, h⟩ | ⟨hfull, h⟩ := s.putBit_cases b
  · rw [h, written, written, take_byteBits_setBit s.nacc.isLt, List.append_assoc]
  · have hbyte := take_byteBits_setBit s.nacc.isLt s.acc b
    rw [hfull, List.take_of_length_le (byteBits_length _).le] at hbyte
    rw [h, written, written, hfull]
    simp [hbyte]

/-- PutBit counts the filled bits round. -/
theorem putBit_nacc_val (b : Bool) (s : State) : (s.putBit b).nacc.val = (s.nacc.val + 1) % 8 := by
  obtain ⟨hroom, h⟩ | ⟨hfull, h⟩ := s.putBit_cases b
  · rw [h, Nat.mod_eq_of_lt hroom]
  · rw [h, hfull]
    rfl

theorem putBit_outq (b : Bool) (s : State) : ∃ q, (s.putBit b).outq = s.outq ++ q := by
  obtain ⟨hroom, h⟩ | ⟨hfull, h⟩ := s.putBit_cases b <;> rw [h]
  · exact ⟨[], s.outq.append_nil.symm⟩
  · exact ⟨_, rfl⟩

/-- Settles O45: the bit takes the next place in `acc`, which is queued when that was its last. -/
theorem putBitAppendsOneBit : Obligations.PutBitAppendsOneBit := fun b s =>
  ⟨written_putBit b s, putBit_outq b s, by obtain ⟨_, h⟩ | ⟨_, h⟩ := s.putBit_cases b <;> rw [h]⟩

end Sys2Proof.Machine
end

section
/-! PROOFS of 44_stream_controller.md R180 to R183: what a compress stream writes, and the STARTs. -/

namespace Sys2Proof.Machine

open Sys2Proof.Claims

variable {s : State} {c : Byte}

/-! ### What the coders write -/

theorem written_putList (bs : List Bool) (s : State) : written (s.putList bs) = written s ++ bs := by
  induction bs generalizing s with
  | nil => rw [State.putList, List.append_nil]
  | cons b r ih => rw [State.putList, ih, written_putBit, List.append_assoc, List.singleton_append]

/-- RUN_FLUSH puts the flag token of the pending run (41_run_coder.md R121). -/
theorem runFlush_eq_putList {k : Nat} (hk : s.run ≠ 0 → inClass k (s.run.toNat - 1) 0) :
    s.runFlush = { s.putList (flagOfRun k s.run.toNat) with run := 0 } := by
  by_cases h : s.run = 0
  · have hzero : s.run.toNat = 0 := by rw [h]; rfl
    rw [State.runFlush, hzero]
    rfl
  · have hpos : s.run.toNat ≠ 0 := fun hz => h (BitVec.eq_of_toNat_eq hz)
    rw [State.runFlush, if_pos (Nat.pos_of_ne_zero hpos), State.putVLC, vlcBits_eq_vlcCode (hk h), flagOfRun,
      if_neg hpos]
    rfl

/-- The literal's code in mode m, j being the class of its rank (42_literal_coder.md R140, R143). -/
def literalBits (m : AMode) (j rank : Nat) (c : Byte) : List Bool :=
  if m = .raw then byteBits c ++ (if c = 0xFF then [false] else []) else vlcCode j rank 3

theorem putList_append (a b : List Bool) (s : State) : s.putList (a ++ b) = (s.putList a).putList b := by
  induction a generalizing s with
  | nil => rfl
  | cons x r ih => exact ih _

theorem rawLitEncode_eq_putList (s : State) (c : Byte) :
    s.rawLitEncode c = s.putList (byteBits c ++ if c = 0xFF then [false] else []) := by
  rw [State.rawLitEncode, State.putBits, putList_append, byteBits]
  by_cases hff : c = 0xFF
  · rw [if_pos hff, if_pos hff, State.putList, State.putList]
  · rw [if_neg hff, if_neg hff, State.putList]

theorem litEncode_eq_putList {j : Nat} (hj : inClass j (s.rank.order.idxOf c) 3) :
    s.litEncode c = State.putList (literalBits s.amode j (s.rank.order.idxOf c) c)
      { s with rank := if s.amode = .raw then s.rank else s.rank.onLiteralByte c } := by
  by_cases hraw : s.amode = .raw
  · rw [State.litEncode, if_pos hraw, literalBits, if_pos hraw, if_pos hraw, rawLitEncode_eq_putList]
  · rw [State.litEncode, if_neg hraw, literalBits, if_neg hraw, if_neg hraw, State.rankLitEncode, State.putVLC,
      RankTable.rankOf, vlcBits_eq_vlcCode hj]

/-- The end marker's code in mode m (42_literal_coder.md R141, R144). -/
def eosBits (m : AMode) : List Bool :=
  if m = .raw then List.replicate 9 true
  else [true, true, true, true, true, false, false, false, false, false, true, false, false, false]

theorem eosEncode_eq_putList (s : State) : s.eosEncode = s.putList (eosBits s.amode) := by
  rw [State.eosEncode, eosBits]
  split_ifs <;> rfl

/-- PadToByte puts zeros until the byte is full (R253). -/
theorem padLoop_written {fuel : Nat} (h : s.nacc = 0 ∨ 8 ≤ s.nacc.val + fuel) :
    ∃ n, n ≤ fuel ∧ (s.padLoop fuel).nacc = 0 ∧ s.padLoop fuel = s.putList (List.replicate n false) := by
  induction fuel generalizing s with
  | zero =>
    have hlt := s.nacc.isLt
    exact ⟨0, le_rfl, h.resolve_right (by omega), rfl⟩
  | succ fuel ih =>
    by_cases hz : s.nacc = 0
    · exact ⟨0, Nat.zero_le _, by rw [State.padLoop, if_pos hz]; exact hz, by rw [State.padLoop, if_pos hz]; rfl⟩
    · have hnext : (s.putBit false).nacc = 0 ∨ 8 ≤ (s.putBit false).nacc.val + fuel := by
        have hfilled := h.resolve_left hz
        have hcount := putBit_nacc_val false s
        have hlt := s.nacc.isLt
        by_cases hfull : s.nacc.val = 7
        · exact .inl (Fin.ext (by rw [hcount, hfull]; rfl))
        · exact .inr (by omega)
      obtain ⟨n, hn, hdone, heq⟩ := ih hnext
      exact ⟨n + 1, by omega, by rw [State.padLoop, if_neg hz]; exact hdone,
        by rw [State.padLoop, if_neg hz, heq]; rfl⟩

theorem padToByte_written (s : State) :
    ∃ n, n < 8 ∧ s.padToByte.nacc = 0 ∧ s.padToByte = s.putList (List.replicate n false) := by
  have hfuel : s.nacc = 0 ∨ 8 ≤ s.nacc.val + 7 := by
    by_cases hz : s.nacc = 0
    · exact .inl hz
    · have : s.nacc.val ≠ 0 := fun h => hz (Fin.ext h)
      exact .inr (by omega)
  obtain ⟨n, hn, h⟩ := padLoop_written hfuel
  exact ⟨n, by omega, h⟩

/-! ### ENC_BYTE and ENC_END -/

theorem State.encByte_of_match (hmatch : s.predict = c) (hroom : s.run.toNat ≠ 2 ^ Config.runW - 1)
    (hfreq : ¬s.freqOverflows c) :
    s.encByte c = { s with
      inCount := s.inCount + 1, run := s.run + 1, ctx := nextCtx s.ctx c
      rank := if s.amode = .rank then s.rank.onMatchedByte c else s.rank } := by
  obtain ⟨-, hfull, -⟩ | ⟨-, hover, -⟩ | ⟨-, -, -, h⟩ | ⟨hmiss, -, -⟩ := s.encByte_cases c
  · exact absurd hfull hroom
  · exact absurd hover hfreq
  · exact h
  · exact absurd hmatch hmiss

theorem State.encByte_of_miss (hmiss : s.predict ≠ c) (hfreq : ¬s.freqOverflows c) :
    s.encByte c = ((s.countIn.runFlush.litEncode c).update c).advance c := by
  obtain ⟨hmatch, -, -⟩ | ⟨-, hover, -⟩ | ⟨hmatch, -, -, -⟩ | ⟨-, -, h⟩ := s.encByte_cases c
  · exact absurd hmatch hmiss
  · exact absurd hover hfreq
  · exact absurd hmatch hmiss
  · exact h

/-- Settles O19: with neither counter at its limit, a match is the third case of ENC_BYTE. -/
theorem matchedByteAccumulates : Obligations.MatchedByteAccumulates := by
  intro c s hat hmatch hroom hfreq
  rw [exec_inData_of_at_cBody hat, State.encByte_of_match hmatch hroom hfreq]

/-- A missed byte's record: its bits, and everything but the bit writer and the queue. -/
theorem encByte_miss_record {k j : Nat} (hmiss : s.predict ≠ c) (hfreq : ¬s.freqOverflows c)
    (hk : s.run ≠ 0 → inClass k (s.run.toNat - 1) 0) (hj : inClass j (s.rank.order.idxOf c) 3) :
    written (s.encByte c) =
      written s ++ flagOfRun k s.run.toNat ++ literalBits s.amode j (s.rank.order.idxOf c) c ∧
    s.encByte c = { s with
      inCount := s.inCount + 1, run := 0, cb := Memory.write s.cb s.ctx.toNat c, ctx := nextCtx s.ctx c
      rank := if s.amode = .raw then s.rank else s.rank.onLiteralByte c
      acc := (s.encByte c).acc, nacc := (s.encByte c).nacc, outq := (s.encByte c).outq } := by
  rw [State.encByte_of_miss hmiss hfreq]
  constructor
  case left =>
    have hflush := runFlush_eq_putList (s := s.countIn) hk
    have hlit := litEncode_eq_putList (s := s.countIn.runFlush) (c := c) (by simpa using hj)
    have hwritten := congrArg written hlit
    rw [written_putList] at hwritten
    simp only [State.runFlush_amode, State.runFlush_rank, State.countIn_amode, State.countIn_rank] at hwritten
    have hflushed : written s.countIn.runFlush = written s ++ flagOfRun k s.run.toNat :=
      (congrArg written hflush).trans (written_putList _ s.countIn)
    exact hwritten.trans (congrArg (· ++ _) hflushed)
  case right => apply State.ext_fields <;> simp

/-- Settles O21: the flag token, then the literal's, each the list its coder puts. -/
theorem missedByteEmitsItsRecord : Obligations.MissedByteEmitsItsRecord := by
  intro c s k j hat hmiss hfreq hk hj
  rw [exec_inData_of_at_cBody hat]
  exact ⟨s.encByte c, rfl, encByte_miss_record hmiss hfreq hk hj⟩

theorem State.acceptEnd_of_at_cBody (h : s.At .cBody) : s.acceptEnd = s.encEnd := by
  rw [State.acceptEnd, h.2]

theorem exec_inEnd_of_at_cBody (h : s.At .cBody) (x : Byte) : exec (.inEnd x) s = .next s.encEnd := by
  rw [exec_inEnd_of_inReady (State.inReady_of_at_cBody h), State.acceptEnd_of_at_cBody h]

/-- ENC_END's bits, and everything but the bit writer and the queue. -/
theorem encEnd_record {k : Nat} (hk : s.run ≠ 0 → inClass k (s.run.toNat - 1) 0) :
    ∃ n, n < 8 ∧ s.encEnd.nacc = 0 ∧
      written s.encEnd = written s ++ flagOfRun k s.run.toNat ++ eosBits s.amode ++ List.replicate n false ∧
      s.encEnd = { s with
        run := 0, phase := .cFinish, acc := s.encEnd.acc, nacc := s.encEnd.nacc, outq := s.encEnd.outq } := by
  obtain ⟨n, hn, hdone, hpad⟩ := padToByte_written s.runFlush.eosEncode
  refine ⟨n, hn, hdone, ?_, ?_⟩
  · have hflushed : written s.runFlush = written s ++ flagOfRun k s.run.toNat :=
      (congrArg written (runFlush_eq_putList hk)).trans (written_putList _ s)
    have hended : written s.runFlush.eosEncode = written s.runFlush ++ eosBits s.amode := by
      rw [eosEncode_eq_putList, written_putList, State.runFlush_amode]
    rw [← hflushed, ← hended, ← written_putList, ← hpad]
    rfl
  · apply State.ext_fields <;> simp [State.encEnd]

/-- Settles O22: the flag token, the end marker and the padding, each the list its coder puts. -/
theorem endOfInputClosesTheStream : Obligations.EndOfInputClosesTheStream := by
  intro x s k hat hk
  obtain ⟨n, hn, hdone, hbits, hframe⟩ := encEnd_record hk
  rw [exec_inEnd_of_at_cBody hat]
  exact ⟨s.encEnd, n, rfl, hn, hdone, hbits, hframe⟩

/-! ### Whole bytes -/

theorem byteBits_injective : Function.Injective byteBits := fun a b h =>
  BitVec.eq_of_toNat_eq (bitsOfNat_inj a.isLt b.isLt h)

/-- Bytes are told by their bits. -/
theorem flatMap_byteBits_injective : Function.Injective (List.flatMap byteBits) := by
  intro p q h
  induction p generalizing q with
  | nil =>
    cases q with
    | nil => rfl
    | cons b q => simp [byteBits, bitsOfNat] at h
  | cons a p ih =>
    cases q with
    | nil => simp [byteBits, bitsOfNat] at h
    | cons b q =>
      rw [List.flatMap_cons, List.flatMap_cons] at h
      obtain ⟨hab, hpq⟩ := List.append_inj h (by rw [byteBits_length, byteBits_length])
      rw [byteBits_injective hab, ih hpq]

theorem flatMap_byteBits_length (q : List Byte) : (q.flatMap byteBits).length = 8 * q.length := by
  induction q with
  | nil => rfl
  | cons b q ih => rw [List.flatMap_cons, List.length_append, byteBits_length, ih, List.length_cons]; omega

/-- With no bit left in `acc`, what is written is the queue. -/
theorem written_of_nacc_eq_zero (h : s.nacc = 0) : written s = s.outq.flatMap byteBits := by
  rw [written, h]
  exact List.append_nil _

/-- Right after a START, END writes F0, the end marker and the padding behind the header. -/
theorem encEnd_empty {hdr : List Byte} (hrun : s.run = 0) (hnacc : s.nacc = 0) (houtq : s.outq = hdr) :
    ∃ n, n < 8 ∧ s.encEnd.outq.flatMap byteBits =
      hdr.flatMap byteBits ++ (false :: eosBits s.amode ++ List.replicate n false) := by
  obtain ⟨n, hn, hdone, hbits, -⟩ := encEnd_record (k := 0) (fun hne => absurd hrun hne)
  refine ⟨n, hn, ?_⟩
  rw [← written_of_nacc_eq_zero hdone, hbits, written_of_nacc_eq_zero hnacc, houtq, hrun, List.append_assoc,
    List.append_assoc]
  rfl

/-- The bits behind the header fill the bytes of `tail`, which their number fixes. -/
theorem encEnd_empty_eq {hdr tail : List Byte} {pad : Nat} (hat : s.At .cBody) (hrun : s.run = 0) (hnacc : s.nacc = 0)
    (houtq : s.outq = hdr) (hlen : 1 + (eosBits s.amode).length + pad = 16) (hpad : pad < 8)
    (htail : false :: eosBits s.amode ++ List.replicate pad false = tail.flatMap byteBits) (x : Byte) :
    ∃ t, exec (.inEnd x) s = .next t ∧ t.outq = hdr ++ tail := by
  obtain ⟨n, hn, hbits⟩ := encEnd_empty hrun hnacc houtq
  have hpadding : n = pad := by
    have h := congrArg List.length hbits
    simp only [flatMap_byteBits_length, List.length_append, List.length_cons, List.length_replicate] at h
    omega
  refine ⟨s.encEnd, exec_inEnd_of_at_cBody hat x, flatMap_byteBits_injective ?_⟩
  rw [hbits, hpadding, htail, List.flatMap_append]

/-- Settles O23: F0, the end marker and 6 or 1 bits of padding make the two bytes. -/
theorem emptyInputIsMinimal : Obligations.EmptyInputIsMinimal := fun x s =>
  ⟨encEnd_empty_eq (s := compressing 1 .raw s) (pad := 6) ⟨rfl, rfl⟩ rfl rfl rfl rfl (by decide) rfl x,
    encEnd_empty_eq (s := compressing 2 .rank s) (pad := 1) ⟨rfl, rfl⟩ rfl rfl rfl rfl (by decide) rfl x⟩

/-! ### CTRL writes -/

theorem State.writeCtrl_of_busy (h : s.st = .busy) (dir : BitVec 1) (mode : BitVec 2) (act : State → State) :
    s.writeCtrl dir mode act = s := if_pos h

/-- Settles O4: each CTRL write is `writeCtrl`, which does nothing while BUSY. -/
theorem ctrlWriteWhileBusyIsIgnored : Obligations.CtrlWriteWhileBusyIsIgnored := by
  intro s hbusy
  have hignored (dir mode act) : (.next (s.writeCtrl dir mode act) : Res) = .next s :=
    congrArg _ (s.writeCtrl_of_busy hbusy dir mode act)
  exact ⟨fun d m => hignored d m id, hignored 0 1 _, hignored 0 2 _, hignored 0 0 _, hignored 0 3 _,
    fun m => hignored 1 m _⟩

theorem exec_cfg (s : State) (dir : BitVec 1) (mode : BitVec 2) :
    exec (.cfg dir mode) s = .next (s.writeCtrl dir mode id) := rfl

theorem exec_startCRaw (s : State) : exec .startCRaw s = .next (s.writeCtrl 0 1 State.startCompress) := rfl

theorem exec_startCRank (s : State) : exec .startCRank s = .next (s.writeCtrl 0 2 State.startCompress) := rfl

/-- Settles O5: CFG stores its fields, and no action follows. -/
theorem cfgStoresDirAndMode : Obligations.CfgStoresDirAndMode := by
  intro d m s hidle
  rw [exec_cfg, State.writeCtrl_of_not_busy hidle, id]

/-- Settles O6: MODE 1 and 2 name a coder, so START_COMPRESS begins a stream. -/
theorem startCompressBeginsAStream : Obligations.StartCompressBeginsAStream := by
  intro s hidle
  rw [exec_startCRaw, exec_startCRank, State.writeCtrl_of_not_busy hidle, State.writeCtrl_of_not_busy hidle]
  exact ⟨rfl, rfl⟩

/-- Settles O8: START_D looks at no MODE. -/
theorem startDecompressBeginsAStream : Obligations.StartDecompressBeginsAStream := by
  intro m s hidle
  rw [exec_startD, State.writeCtrl_of_not_busy hidle]
  rfl

end Sys2Proof.Machine
end

section
/-! PROOFS of 41_run_coder.md, 42_literal_coder.md and 44_stream_controller.md R186 to R190: the tokens of the
decompress direction, each at its phase and nowhere else. -/

namespace Sys2Proof.Machine

open Sys2Proof.Claims

variable {s : State} {i : Instr}

/-! ### What each class of tokens runs -/

theorem State.atPhase_of_not_at {p : Phase} (h : ¬s.At p) (f : State → State) : s.atPhase p f = s := if_neg h

theorem State.atRawLit_of_at (h : s.At .dLit) (hraw : s.amode = .raw) (f : State → State) : s.atRawLit f = f s :=
  if_pos ⟨h, hraw⟩

theorem State.atRankLit_of_at (h : s.At .dLit) (hrank : s.amode ≠ .raw) (f : State → State) : s.atRankLit f = f s :=
  if_pos ⟨h, hrank⟩

theorem exec_f0 (s : State) : exec .f0 s = .next (s.atPhase .dFlag State.noRun) := rfl

theorem exec_runOvf (s : State) : exec .runOvf s = .next (s.atPhase .dFlag (State.raise .runLengthOverflow)) := rfl

theorem exec_eosRaw (s : State) : exec .eosRaw s = .next (s.atRawLit State.endOfStream) := rfl

theorem exec_eosRank (s : State) : exec .eosRank s = .next (s.atRankLit State.endOfStream) := rfl

theorem exec_badRankPrefix (s : State) : exec .badRankPrefix s = .next (s.atRankLit (State.raise .badRank)) := rfl

theorem exec_badRankK5 (s : State) (v : BitVec 8) :
    exec (.badRankK5 v) s = .next (s.atRankLit (State.raise .badRank)) := rfl

theorem exec_pad (s : State) (n : Fin 8) :
    exec (.pad n) s = .next (s.atPhase .dTail fun t => { t with nleft := 0 }) := rfl

/-- An F1 token is one of a class and a suffix, and its length is theirs (30_encoding.md R73). -/
theorem runOf_cases {L : Nat} (h : runOf i = some L) : ∃ k v, k < 32 ∧ v < 2 ^ k ∧ L = 2 ^ k + v := by
  cases i <;> cases h
  case f1K0.refl => exact ⟨0, 0, by decide, by decide, rfl⟩
  all_goals exact ⟨_, _, by decide, BitVec.isLt _, rfl⟩

theorem exec_of_runOf {L : Nat} (h : runOf i = some L) (s : State) :
    exec i s = .next (s.atPhase .dFlag (State.beginRun L)) := by
  cases i <;> cases h <;> rfl

theorem exec_of_rawByteOf {c : Byte} (h : rawByteOf i = some c) (s : State) :
    exec i s = .next (s.atRawLit (State.rawLiteral c)) := by
  cases i <;> cases h <;> rfl

theorem exec_of_rankOfToken {n : Nat} (h : rankOfToken i = some n) (s : State) :
    exec i s = .next (s.atRankLit (State.rankLiteral n)) := by
  cases i <;> cases h <;> rfl

/-! ### Flag tokens -/

/-- A run's length is at least 1 and fits the counter. -/
theorem runOf_bounds {L : Nat} (h : runOf i = some L) : 1 ≤ L ∧ L < 2 ^ 32 := by
  obtain ⟨k, v, hk, hv, rfl⟩ := runOf_cases h
  have hpos := Nat.two_pow_pos k
  have htop : 2 ^ (k + 1) ≤ 2 ^ 32 := Nat.pow_le_pow_right (by decide) hk
  rw [Nat.pow_succ] at htop
  omega

/-- Settles O25: an F1 sets `rem` to its length, which the counter holds whole. -/
theorem flagTokensSetTheReplay : Obligations.FlagTokensSetTheReplay := by
  intro s hat
  rw [exec_f0, State.atPhase_of_at hat]
  refine ⟨rfl, fun i L h => ?_⟩
  obtain ⟨hpos, hfits⟩ := runOf_bounds h
  rw [exec_of_runOf h, State.atPhase_of_at hat]
  exact ⟨hpos, hfits, BitVec.ofNat 32 L, by rw [BitVec.toNat_ofNat, Nat.mod_eq_of_lt hfits], rfl⟩

/-- Settles O26: each of the three tokens runs `raise` at its phase. -/
theorem codesPastTheLimitRaise : Obligations.CodesPastTheLimitRaise := by
  intro s
  constructor
  case left =>
    intro hat
    rw [exec_runOvf, State.atPhase_of_at hat, State.raise_eq_failed]
  case right =>
    intro hat hrank
    refine ⟨?_, fun v => ?_⟩
    · rw [exec_badRankPrefix, State.atRankLit_of_at hat hrank, State.raise_eq_failed]
    · rw [exec_badRankK5, State.atRankLit_of_at hat hrank, State.raise_eq_failed]

/-! ### Literals and end markers -/

theorem State.literal_eq_afterLiteral (c : Byte) (s : State) : s.literal c = afterLiteral c s := rfl

/-- Settles O27: a raw literal is `literal` of its byte. -/
theorem rawLiteralsAreEmitted : Obligations.RawLiteralsAreEmitted := by
  intro i c s h hat hraw
  rw [exec_of_rawByteOf h, State.atRawLit_of_at hat hraw, State.rawLiteral, State.literal_eq_afterLiteral]

theorem State.rankLiteral_of_not_full {n : Nat} (h : ¬s.rank.freqFull (s.rank.symbolAt n)) :
    s.rankLiteral n =
      afterLiteral (s.rank.symbolAt n) { s with rank := s.rank.onLiteralByte (s.rank.symbolAt n) } := if_neg h

theorem State.rankLiteral_of_full {n : Nat} (h : s.rank.freqFull (s.rank.symbolAt n)) :
    s.rankLiteral n = s.raise .freqOverflow := if_pos h

/-- Settles O28: the symbol at the rank decides which of the two cases it is. -/
theorem rankLiteralsAreEmitted : Obligations.RankLiteralsAreEmitted := by
  intro i n c s h hat hrank hc
  have hsymbol : s.rank.symbolAt n = c := by rw [RankTable.symbolAt, List.getD_eq_getElem?_getD, hc, Option.getD_some]
  subst hsymbol
  rw [exec_of_rankOfToken h, State.atRankLit_of_at hat hrank]
  exact ⟨fun hroom => congrArg _ (State.rankLiteral_of_not_full hroom),
    fun hfull => congrArg _ (State.rankLiteral_of_full hfull)⟩

/-- Settles O29: both end markers are `endOfStream`; PAD empties the bit reader. -/
theorem endMarkersLeadToTheTail : Obligations.EndMarkersLeadToTheTail := by
  intro s
  refine ⟨fun hat hraw => ?_, fun hat hrank => ?_, fun hat n => ?_⟩
  · rw [exec_eosRaw, State.atRawLit_of_at hat hraw, State.endOfStream]
  · rw [exec_eosRank, State.atRankLit_of_at hat hrank, State.endOfStream]
  · rw [exec_pad, State.atPhase_of_at hat]

/-! ### Outside a stream -/

theorem State.not_at_of_not_busy (h : s.st ≠ .busy) (p : Phase) : ¬s.At p := fun hat => h hat.1

theorem exec_atPhase_of_not_busy (h : s.st ≠ .busy) (p : Phase) (f : State → State) :
    (.next (s.atPhase p f) : Res) = .next s := by
  rw [State.atPhase_of_not_at (State.not_at_of_not_busy h p)]

theorem exec_atRawLit_of_not_busy (h : s.st ≠ .busy) (f : State → State) : (.next (s.atRawLit f) : Res) = .next s :=
  congrArg _ (if_neg fun hat => h hat.1.1)

theorem exec_atRankLit_of_not_busy (h : s.st ≠ .busy) (f : State → State) : (.next (s.atRankLit f) : Res) = .next s :=
  congrArg _ (if_neg fun hat => h hat.1.1)

/-- Settles O30: every token runs at a phase, and no phase is a place to run while STATE is not BUSY. -/
theorem noTokenRunsUnlessBusy : Obligations.NoTokenRunsUnlessBusy := by
  intro i s htoken hidle
  cases i
  case lit8 | litFF | eosRaw => exact exec_atRawLit_of_not_busy hidle _
  case rlitK0 | rlitK1 | rlitK2 | rlitK3 | rlitK4 | rlitK5 | eosRank | badRankK5 | badRankPrefix =>
    exact exec_atRankLit_of_not_busy hidle _
  all_goals first
    | exact absurd rfl (htoken _)
    | exact exec_atPhase_of_not_busy hidle _ _

end Sys2Proof.Machine
end

section
/-! PROOFS of 45_host_interface.md R221 to R223 and 48_bitio_vlc.md R254, R255: the beats. -/

namespace Sys2Proof.Machine

open Sys2Proof.Claims

variable {s : State}

/-- No instruction stops (log 18). -/
theorem exec_next (i : Instr) (s : State) : ∃ t, exec i s = .next t := by
  cases i
  case out =>
    obtain ⟨b, -, h⟩ | ⟨-, h⟩ := execOut_cases s
    · exact ⟨_, h⟩
    · exact ⟨_, h⟩
  all_goals exact ⟨_, rfl⟩

/-! ### Taking a byte -/

/-- Settles O14: by the queue's two forms. -/
theorem outTakesTheHead : Obligations.OutTakesTheHead := by
  intro s
  refine ⟨?_, fun b q hq => ?_, fun hq => ?_⟩
  · rw [State.outValid, Bool.not_eq_true', List.isEmpty_eq_false_iff]
  · refine ⟨by rw [State.outData, hq, List.head?_cons], ?_⟩
    change execOut s = _
    rw [execOut, hq]
  · have hnone : s.outData = none := by rw [State.outData, hq, List.head?_nil]
    obtain ⟨b, hb, -⟩ | ⟨-, h⟩ := execOut_cases s
    · exact absurd (hnone.symm.trans hb) (Option.some_ne_none b).symm
    · exact ⟨hnone, h⟩

/-! ### Where a beat is accepted -/

/-- The phases in which the decoder waits for a byte (R222). -/
def State.waitsForByte (s : State) : Prop :=
  (s.At .dHdr ∧ s.hdrByte = none) ∨ ((s.At .dFlag ∨ s.At .dLit) ∧ s.nleft = 0)

theorem State.inReady_of_waitsForByte (h : s.waitsForByte) : s.inReady = true := by
  obtain ⟨⟨hbusy, hphase⟩, hnone⟩ | ⟨⟨hbusy, hphase⟩ | ⟨hbusy, hphase⟩, hempty⟩ := h
  · simp [State.inReady, hbusy, hphase, hnone]
  · simp [State.inReady, hbusy, hphase, hempty]
  · simp [State.inReady, hbusy, hphase, hempty]

/-- in_ready is 1 at C_BODY, at D_TAIL and where the decoder waits for a byte, and nowhere else (R222). -/
theorem State.inReady_iff : s.inReady = true ↔ s.At .cBody ∨ s.At .dTail ∨ s.waitsForByte := by
  cases hphase : s.phase <;> simp [State.inReady, State.waitsForByte, State.At, hphase]

theorem exec_inData_of_not_inReady (h : s.inReady = false) (d : Byte) :
    exec (.inData d) s = .next (s.hold (.beat (0#1 ++ d))) := by
  change execInData d s = _
  rw [execInData, if_neg (Bool.not_eq_true _ ▸ h)]

theorem exec_inEnd_of_not_inReady (h : s.inReady = false) (x : Byte) :
    exec (.inEnd x) s = .next (s.hold (.beat (1#1 ++ x))) := by
  change execInEnd x s = _
  rw [execInEnd, if_neg (Bool.not_eq_true _ ▸ h)]

/-- Settles O15: in_ready is 0 there, so the beat is held. -/
theorem beatIsHeldUntilAccepted : Obligations.BeatIsHeldUntilAccepted := by
  intro s h
  have hnot : s.inReady = false := by
    obtain h | h | h | h | h | ⟨h | h, hbits⟩ | ⟨h, hbyte⟩ := h <;> simp [State.inReady, *]
    exact fun _ => Option.isSome_iff_ne_none.mpr hbyte
  exact ⟨fun d => exec_inData_of_not_inReady hnot d, fun x => exec_inEnd_of_not_inReady hnot x⟩

/-! ### A beat that feeds a wait, and END in one -/

theorem exec_inData_dHdr (hat : s.At .dHdr) (hnone : s.hdrByte = none) (d : Byte) :
    exec (.inData d) s = .next (s.feedHeader d) := by
  rw [exec_inData_of_inReady (State.inReady_of_waitsForByte (.inl ⟨hat, hnone⟩)), State.acceptByte, hat.2]

theorem exec_inData_bits (hat : s.At .dFlag ∨ s.At .dLit) (hempty : s.nleft = 0) (d : Byte) :
    exec (.inData d) s = .next (s.feedBits d) := by
  rw [exec_inData_of_inReady (State.inReady_of_waitsForByte (.inr ⟨hat, hempty⟩)), State.acceptByte]
  obtain ⟨-, hphase⟩ | ⟨-, hphase⟩ := hat <;> rw [hphase]

/-- Settles O16: the wait is `feedHeader`'s in D_HDR and `feedBits`'s at the token phases. -/
theorem dataBeatFeedsTheWait : Obligations.DataBeatFeedsTheWait := fun d _ =>
  ⟨fun hat hnone => exec_inData_dHdr hat hnone d, fun hat hempty => exec_inData_bits hat hempty d⟩

theorem State.acceptEnd_of_waitsForByte (h : s.waitsForByte) : s.acceptEnd = s.raise .unexpectedEnd := by
  obtain ⟨⟨-, hphase⟩, -⟩ | ⟨⟨-, hphase⟩ | ⟨-, hphase⟩, -⟩ := h <;> rw [State.acceptEnd, hphase]

/-- Settles O17: END in a wait is accepted, and raises. -/
theorem endBeatInAWaitRaisesUnexpectedEnd : Obligations.EndBeatInAWaitRaisesUnexpectedEnd := by
  intro x s h
  rw [exec_inEnd_of_inReady (State.inReady_of_waitsForByte h), State.acceptEnd_of_waitsForByte h,
    State.raise_eq_failed]

/-! ### Who moves after it -/

theorem State.nextAgent_of_midStep (h : s.midStep = true) : s.nextAgent = .block := by
  simp [State.nextAgent, State.contested, h]

/-- No turn is used inside a step. -/
theorem State.useTurn_of_midStep (h : s.midStep = true) : s.useTurn = s := by
  simp [State.useTurn, State.contested, h]

/-- What is half done has what it waited for (00_scope.md R8). -/
theorem State.blockEnabled_of_midStep (h : s.midStep = true) : s.blockEnabled = true := by
  unfold State.midStep at h
  unfold State.blockEnabled
  grind

theorem State.midStep_feedHeader (hat : s.At .dHdr) (d : Byte) : (s.feedHeader d).midStep = true := by
  simp [State.midStep, State.feedHeader, hat.1, hat.2]

theorem State.midStep_feedBits (hat : s.At .dFlag ∨ s.At .dLit) (d : Byte) : (s.feedBits d).midStep = true := by
  obtain hat | hat := hat <;> simp [State.midStep, State.feedBits, hat.1, hat.2]

/-- Settles O36: a state that was just fed is in the middle of a step. -/
theorem noHostMoveInsideAStep : Obligations.NoHostMoveInsideAStep := by
  intro d s t hwait h
  have hmid : t.midStep = true := by
    obtain ⟨hat, hnone⟩ | ⟨hat, hempty⟩ := hwait
    · rw [exec_inData_dHdr hat hnone] at h
      exact Host.Outcome.next.inj h ▸ State.midStep_feedHeader hat d
    · rw [exec_inData_bits hat hempty] at h
      exact Host.Outcome.next.inj h ▸ State.midStep_feedBits hat d
  exact ⟨State.nextAgent_of_midStep hmid, State.blockEnabled_of_midStep hmid⟩

end Sys2Proof.Machine
end

section
/-! PROOFS of 44_stream_controller.md R188 to R192 and 00_scope.md R7 to R9: the step, by who moves and by phase. -/

namespace Sys2Proof.Machine

open Sys2Proof.Claims

variable {s : State}

/-! ### Who moves -/

theorem step_of_nextAgent_block (h : s.nextAgent = .block) : step s = blockStep s.useTurn := by
  rw [step, h]

/-- Where the block has no step and the host nothing to do, nothing happens. -/
theorem step_of_no_host_of_not_enabled (hhost : s.host = []) (henabled : s.blockEnabled = false) :
    step s = .next s := by
  have hfree : s.contested = false := by simp [State.contested, hhost]
  have hturn : s.useTurn = s := by rw [State.useTurn, hfree, if_neg Bool.false_ne_true]
  have hagent : s.nextAgent = .block := by simp [State.nextAgent, hfree, hhost]
  rw [step_of_nextAgent_block hagent, hturn, blockStep, henabled, if_neg Bool.false_ne_true]

/-! ### The block's step, by phase -/

theorem blockStep_of_fetch_instr {i : Instr} {t : State} (henabled : s.blockEnabled = true)
    (hfetch : s.fetch = .instr i t) : blockStep s = exec i t := by
  rw [blockStep, if_pos henabled, hfetch]

theorem blockStep_of_fetch_moved {t : State} (henabled : s.blockEnabled = true) (hfetch : s.fetch = .moved t) :
    blockStep s = .next t := by
  rw [blockStep, if_pos henabled, hfetch]

theorem State.blockEnabled_of_tokens (hat : s.At .dFlag ∨ s.At .dLit) (hbits : s.nleft ≠ 0) :
    s.blockEnabled = true := by
  obtain ⟨hbusy, hphase⟩ | ⟨hbusy, hphase⟩ := hat <;> simp [State.blockEnabled, hbusy, hphase, hbits]

theorem State.fetch_of_tokens (hat : s.At .dFlag ∨ s.At .dLit) : s.fetch = s.fetchToken := by
  obtain ⟨-, hphase⟩ | ⟨-, hphase⟩ := hat <;> rw [State.fetch, hphase]

theorem blockStep_of_token {i : Instr} {rest : List Bool} (hat : s.At .dFlag ∨ s.At .dLit) (hbits : s.nleft ≠ 0)
    (hread : s.decodeToken (s.tok ++ s.unread) = .got i rest) :
    blockStep s = exec i { s with tok := [], nleft := Fin.ofNat 9 rest.length } :=
  blockStep_of_fetch_instr (State.blockEnabled_of_tokens hat hbits)
    ((State.fetch_of_tokens hat).trans (by rw [State.fetchToken, hread]))

theorem blockStep_of_wait (hat : s.At .dFlag ∨ s.At .dLit) (hbits : s.nleft ≠ 0)
    (hread : s.decodeToken (s.tok ++ s.unread) = .wait) :
    blockStep s = .next { s with tok := s.tok ++ s.unread, nleft := 0 } :=
  blockStep_of_fetch_moved (State.blockEnabled_of_tokens hat hbits)
    ((State.fetch_of_tokens hat).trans (by rw [State.fetchToken, hread]))

theorem blockStep_dHdr {b : Byte} (hat : s.At .dHdr) (hbyte : s.hdrByte = some b) :
    blockStep s = exec (decodeHeader s.hidx b) { s with hdrByte := none } := by
  obtain ⟨hbusy, hphase⟩ := hat
  refine blockStep_of_fetch_instr ?_ ?_
  · simp [State.blockEnabled, hbusy, hphase, hbyte]
  · rw [State.fetch, hphase]
    simp only [hbyte]

theorem blockStep_dReplay (hat : s.At .dReplay) : blockStep s = .next s.replayByte := by
  obtain ⟨hbusy, hphase⟩ := hat
  refine blockStep_of_fetch_moved ?_ ?_
  · simp [State.blockEnabled, hbusy, hphase]
  · rw [State.fetch, hphase]

theorem blockStep_finish (hat : s.At .cFinish ∨ s.At .dFinish) (hempty : s.outq = []) :
    blockStep s = .next s.complete := by
  refine blockStep_of_fetch_moved ?_ ?_
  · obtain ⟨hbusy, hphase⟩ | ⟨hbusy, hphase⟩ := hat <;> simp [State.blockEnabled, hbusy, hphase, hempty]
  · obtain ⟨-, hphase⟩ | ⟨-, hphase⟩ := hat <;> rw [State.fetch, hphase]

theorem blockStep_dTail (hat : s.At .dTail) (hbits : s.nleft ≠ 0) : blockStep s = .next { s with nleft := 0 } := by
  obtain ⟨hbusy, hphase⟩ := hat
  refine (blockStep_of_fetch_instr ?_ (by rw [State.fetch, hphase])).trans ?_
  · simp [State.blockEnabled, hbusy, hphase, hbits]
  · rw [exec_pad, State.atPhase_of_at ⟨hbusy, hphase⟩]

/-- Where the block has a step (R192). -/
theorem State.blockEnabled_cases (h : s.blockEnabled = true) :
    (s.At .dHdr ∧ ∃ b, s.hdrByte = some b) ∨ ((s.At .dFlag ∨ s.At .dLit) ∧ s.nleft ≠ 0) ∨ s.At .dReplay ∨
    (s.At .dTail ∧ s.nleft ≠ 0) ∨ ((s.At .cFinish ∨ s.At .dFinish) ∧ s.outq = []) := by
  unfold State.blockEnabled at h
  cases hphase : s.phase <;> simp [State.At, hphase, Option.isSome_iff_exists] at h ⊢ <;> exact h

theorem State.not_enabled_of_finish (hat : s.At .cFinish ∨ s.At .dFinish) (hqueue : s.outq ≠ []) :
    s.blockEnabled = false := by
  obtain ⟨hbusy, hphase⟩ | ⟨hbusy, hphase⟩ := hat <;> simp [State.blockEnabled, hphase, hqueue]

/-! ### Tokens, header bytes and the host's operations -/

/-- Settles O33: the two cases of `fetchToken`, on a state whose turn is used. -/
theorem stepRunsTheDecodedToken : Obligations.StepRunsTheDecodedToken := by
  intro s hat hbits hagent
  rw [step_of_nextAgent_block hagent, State.useTurn_eq]
  generalize s.useTurn.turns = turns
  exact ⟨fun i rest hread => blockStep_of_token (s := { s with turns := turns }) hat hbits hread,
    fun hread => blockStep_of_wait (s := { s with turns := turns }) hat hbits hread⟩

theorem hostStep_of_decode {op : HostOp} {rest : List HostOp} {i : Instr} (hhost : s.host = op :: rest)
    (hop : decodeHost op = some i) : hostStep s = exec i { s with host := rest } := by
  rw [hostStep, hhost]
  simp only [hop]

theorem decodeHost_of_decode {op : HostOp} {i : Instr} (h : decode (.host op) = .ok i) : decodeHost op = some i := by
  unfold decode at h
  cases hop : decodeHost op with
  | none => simp [hop] at h
  | some j => simpa [hop] using h

/-- Settles O34: the operation that decodes is the one `hostStep` runs. -/
theorem stepRunsTheHostOperation : Obligations.StepRunsTheHostOperation := by
  intro s op rest i hagent hhost hop
  rw [step_of_nextAgent_host hagent,
    hostStep_of_decode (State.useTurn_host.trans hhost) (decodeHost_of_decode hop)]

theorem State.midStep_of_header {b : Byte} (hat : s.At .dHdr) (hbyte : s.hdrByte = some b) : s.midStep = true := by
  simp [State.midStep, hat.1, hat.2, hbyte]

theorem step_of_midStep (h : s.midStep = true) : step s = blockStep s := by
  rw [step_of_nextAgent_block (State.nextAgent_of_midStep h), State.useTurn_of_midStep h]

/-- Settles O35: a header byte at hand is the middle of a step, so it is the block's move and no turn is used. -/
theorem stepRunsTheHeaderByte : Obligations.StepRunsTheHeaderByte := by
  intro s b hat hbyte
  rw [step_of_midStep (State.midStep_of_header hat hbyte), blockStep_dHdr hat hbyte]

/-! ### Replay and COMPLETE -/

theorem RunWord.sub_one_eq_zero_iff (r : RunWord) : r - 1 = 0 ↔ r = 1 := sub_eq_zero

/-- One replayed byte, c being the prediction (41_run_coder.md R123). -/
theorem State.replayByte_eq (hfreq : ¬s.freqOverflows s.predict) :
    s.replayByte = { s with
      outq := s.outq ++ [s.predict], ctx := nextCtx s.ctx s.predict, rem := s.rem - 1
      rank := if s.amode = .rank then s.rank.onMatchedByte s.predict else s.rank
      phase := if s.rem = 1 then .dLit else s.phase } := by
  obtain ⟨hover, -⟩ | ⟨-, h⟩ := s.replayByte_cases
  · exact absurd hover hfreq
  · rw [h]
    simp only [RunWord.sub_one_eq_zero_iff]

theorem State.replayByte_of_freqOverflows (hfreq : s.freqOverflows s.predict) :
    s.replayByte = s.raise .freqOverflow := if_pos hfreq

/-- Settles O31: the block's step in D_REPLAY is `replayByte`. -/
theorem replayEmitsThePrediction : Obligations.ReplayEmitsThePrediction := by
  rintro s c hat hagent rfl
  rw [step_of_nextAgent_block hagent, State.useTurn_eq]
  generalize s.useTurn.turns = turns
  rw [blockStep_dReplay (s := { s with turns := turns }) hat]
  constructor
  case left =>
    intro hfreq
    rw [State.replayByte_eq (s := { s with turns := turns }) hfreq, ← hat.2]
    rfl
  case right =>
    intro hrank hfull
    rw [State.replayByte_of_freqOverflows (s := { s with turns := turns }) ⟨hrank, hfull⟩, State.raise_eq_failed]

/-- Settles O50. -/
theorem everyStepAnswersNext : Obligations.EveryStepAnswersNext := by
  refine ⟨exec_next, fun s => ?_⟩
  cases hagent : s.nextAgent with
  | block =>
    rw [step_of_nextAgent_block hagent, blockStep]
    split
    · split
      · exact exec_next _ _
      · exact ⟨_, rfl⟩
    · exact ⟨_, rfl⟩
  | host =>
    rw [step_of_nextAgent_host hagent, hostStep]
    split
    · exact ⟨_, rfl⟩
    · split
      · exact exec_next _ _
      · exact ⟨_, rfl⟩

end Sys2Proof.Machine
end

section
/-! PROOFS of 44_stream_controller.md R192 and 45_host_interface.md: everything a step can do, as two relations: the
block's own moves, and what an operation of the host does. Each statement about all steps is a case split on them. -/

namespace Sys2Proof.Machine

open Sys2Proof.Claims

variable {s t : State} {i : Instr}

/-! ### The token at the bit reader's place -/

/-- The code these bits are at the bit reader's place: a flag, or a literal of the active mode (R122, R189). -/
def State.tokenCode (s : State) (bits : List Bool) : Code :=
  if s.phase = .dFlag then .flag bits else if s.amode = .raw then .raw bits else .rank bits

theorem State.decodeToken_encode {bits : List Bool} (hwf : i.wellFormed = true) (h : encode i = s.tokenCode bits)
    (rest : List Bool) : s.decodeToken (bits ++ rest) = .got i rest := by
  unfold State.tokenCode at h
  unfold State.decodeToken
  split_ifs at h ⊢
  · exact decodeFlag_encode h rest
  · exact decodeRaw_encode hwf h rest
  · exact decodeRank_encode hwf h rest

/-- The decoder waits, or reads the code of the token it gives. -/
theorem State.decodeToken_cases (s : State) (bs : List Bool) :
    s.decodeToken bs = .wait ∨ ∃ i bits rest, i.wellFormed = true ∧ encode i = s.tokenCode bits ∧ bs = bits ++ rest ∧
      s.decodeToken bs = .got i rest := by
  unfold State.tokenCode State.decodeToken
  split_ifs
  · exact decodeFlag_cases bs
  · exact decodeRaw_cases bs
  · exact decodeRank_cases bs

theorem State.encode_of_decodeToken_got {bs rest : List Bool} (h : s.decodeToken bs = .got i rest) :
    i.wellFormed = true ∧ ∃ bits, encode i = s.tokenCode bits ∧ bs = bits ++ rest := by
  obtain hw | ⟨j, bits, r, hwf, hcode, hbs, hg⟩ := s.decodeToken_cases bs
  · simp [hw] at h
  · obtain ⟨rfl, rfl⟩ := Get.got.inj (hg.symm.trans h)
    exact ⟨hwf, bits, hcode, hbs⟩

theorem flag_effect_cases {bits : List Bool} (h : encode i = .flag bits) :
    i = .f0 ∨ i = .runOvf ∨ ∃ L, runOf i = some L := by
  cases i <;> cases h
  case f0.refl => exact .inl rfl
  case runOvf.refl => exact .inr (.inl rfl)
  all_goals exact .inr (.inr ⟨_, rfl⟩)

theorem raw_effect_cases {bits : List Bool} (h : encode i = .raw bits) : i = .eosRaw ∨ ∃ c, rawByteOf i = some c := by
  cases i <;> cases h
  case eosRaw.refl => exact .inl rfl
  all_goals exact .inr ⟨_, rfl⟩

theorem rank_effect_cases {bits : List Bool} (h : encode i = .rank bits) :
    i = .eosRank ∨ i = .badRankPrefix ∨ (∃ v, i = .badRankK5 v) ∨ ∃ n, rankOfToken i = some n := by
  cases i <;> cases h
  case eosRank.refl => exact .inl rfl
  case badRankPrefix.refl => exact .inr (.inl rfl)
  case badRankK5.refl => exact .inr (.inr (.inl ⟨_, rfl⟩))
  all_goals exact .inr (.inr (.inr ⟨_, rfl⟩))

/-! ### The block's moves -/

/-- What a step of the block can make of s. -/
inductive BlockMove (s : State) : State → Prop
  | rest (henabled : s.blockEnabled = false) : BlockMove s s
  | headerMagic (hat : s.At .dHdr) (hbyte : s.hdrByte ≠ none) :
      BlockMove s { s with hdrByte := none, hidx := s.hidx + 1 }
  | headerMode (m : AMode) (hm : m ≠ .none) (hat : s.At .dHdr) (hbyte : s.hdrByte ≠ none) (hidx : s.hidx = 3) :
      BlockMove s { s with hdrByte := none, amode := m, phase := .dFlag }
  | headerFail (hat : s.At .dHdr) (hbyte : s.hdrByte ≠ none) : BlockMove s (s.raise .format)
  | noRun (i : Instr) (rest : List Bool) (hat : s.At .dFlag) (hbits : s.nleft ≠ 0)
      (hread : s.decodeToken (s.tok ++ s.unread) = .got i rest) :
      BlockMove s { s with tok := [], nleft := Fin.ofNat 9 rest.length, phase := .dLit }
  | beginRun (i : Instr) (rest : List Bool) (L : RunWord) (hL : L ≠ 0) (hat : s.At .dFlag) (hbits : s.nleft ≠ 0)
      (hread : s.decodeToken (s.tok ++ s.unread) = .got i rest) :
      BlockMove s { s with tok := [], nleft := Fin.ofNat 9 rest.length, rem := L, phase := .dReplay }
  | literal (i : Instr) (rest : List Bool) (c : Byte) (r : RankTable)
      (hr : (s.amode = .raw ∧ r = s.rank) ∨ (s.amode ≠ .raw ∧ r = s.rank.onLiteralByte c)) (hat : s.At .dLit)
      (hbits : s.nleft ≠ 0) (hread : s.decodeToken (s.tok ++ s.unread) = .got i rest) :
      BlockMove s { s with
        tok := [], nleft := Fin.ofNat 9 rest.length, outq := s.outq ++ [c], cb := Memory.write s.cb s.ctx.toNat c
        ctx := nextCtx s.ctx c, rank := r, phase := .dFlag }
  | endOfStream (hat : s.At .dLit) (hbits : s.nleft ≠ 0) :
      BlockMove s { s with tok := [], nleft := 0, phase := .dTail }
  | tokenFail (i : Instr) (rest : List Bool) (e : ErrCode) (he : e ≠ .none) (hat : s.At .dFlag ∨ s.At .dLit)
      (hbits : s.nleft ≠ 0) (hread : s.decodeToken (s.tok ++ s.unread) = .got i rest) :
      BlockMove s (State.raise e { s with nleft := Fin.ofNat 9 rest.length })
  | tokenWait (hat : s.At .dFlag ∨ s.At .dLit) (hbits : s.nleft ≠ 0)
      (hread : s.decodeToken (s.tok ++ s.unread) = .wait) :
      BlockMove s { s with tok := s.tok ++ s.unread, nleft := 0 }
  | replay (hat : s.At .dReplay) :
      BlockMove s { s with
        outq := s.outq ++ [s.predict], ctx := nextCtx s.ctx s.predict, rem := s.rem - 1
        rank := if s.amode = .rank then s.rank.onMatchedByte s.predict else s.rank
        phase := if s.rem = 1 then .dLit else .dReplay }
  | replayFail (hat : s.At .dReplay) : BlockMove s (s.raise .freqOverflow)
  | pad (hat : s.At .dTail) (hbits : s.nleft ≠ 0) : BlockMove s { s with nleft := 0 }
  | complete (hat : s.At .cFinish ∨ s.At .dFinish) (hempty : s.outq = []) :
      BlockMove s { s with st := .done, phase := .halt }

theorem exec_hdrMagic_cases (hat : s.At .dHdr) (hidx : s.hidx.toNat < 3) (b : Byte) :
    exec (.hdrMagic b) s = .next (s.raise .format) ∨ exec (.hdrMagic b) s = .next { s with hidx := s.hidx + 1 } := by
  rw [exec_hdrMagic_of_at hat, State.headerMagic_eq (k := ⟨s.hidx.toNat, hidx⟩) rfl]
  split_ifs
  · exact .inl rfl
  · exact .inr rfl

theorem hidx_eq_three (h : ¬s.hidx.toNat < 3) : s.hidx = 3 := by
  have := s.hidx.isLt
  exact BitVec.eq_of_toNat_eq (by change _ = 3; omega)

/-- A header byte is checked: it is passed, it gives the mode, or it raises FORMAT (R186). -/
theorem BlockMove.of_header {b : Byte} (hat : s.At .dHdr) (hbyte : s.hdrByte = some b)
    (h : exec (decodeHeader s.hidx b) { s with hdrByte := none } = .next t) : BlockMove s t := by
  have hsome : s.hdrByte ≠ none := Option.ne_none_iff_exists'.mpr ⟨b, hbyte⟩
  by_cases hidx : s.hidx.toNat < 3
  · rw [decodeHeader, if_pos hidx] at h
    obtain hx | hx := exec_hdrMagic_cases (s := { s with hdrByte := none }) hat hidx b
    · obtain rfl := Host.Outcome.next.inj (hx.symm.trans h)
      exact .headerFail hat hsome
    · obtain rfl := Host.Outcome.next.inj (hx.symm.trans h)
      exact .headerMagic hat hsome
  · have hfourth := hidx_eq_three hidx
    rw [decodeHeader, if_neg hidx, decodeMode] at h
    split_ifs at h
    · rw [exec_hdrModeRaw_of_at (s := { s with hdrByte := none }) hat,
        State.headerMode_of_hidx_eq_three (s := { s with hdrByte := none }) hfourth] at h
      obtain rfl := Host.Outcome.next.inj h
      exact .headerMode .raw (by decide) hat hsome hfourth
    · rw [exec_hdrModeRank_of_at (s := { s with hdrByte := none }) hat,
        State.headerMode_of_hidx_eq_three (s := { s with hdrByte := none }) hfourth] at h
      obtain rfl := Host.Outcome.next.inj h
      exact .headerMode .rank (by decide) hat hsome hfourth
    · rw [exec_hdrModeBad_of_at (s := { s with hdrByte := none }) hat,
        State.headerBad_of_hidx_eq_three (s := { s with hdrByte := none }) hfourth] at h
      obtain rfl := Host.Outcome.next.inj h
      exact .headerFail hat hsome

/-- s with the token at hand taken off its input. -/
def State.tokenTaken (rest : List Bool) (s : State) : State := { s with tok := [], nleft := Fin.ofNat 9 rest.length }

/-- A flag token begins a run, begins none, or raises (R122). -/
theorem BlockMove.of_flag {rest : List Bool} (hat : s.At .dFlag) (hbits : s.nleft ≠ 0)
    (hread : s.decodeToken (s.tok ++ s.unread) = .got i rest) (h : exec i (s.tokenTaken rest) = .next t) :
    BlockMove s t := by
  have hat' : (s.tokenTaken rest).At .dFlag := hat
  obtain ⟨-, bits, hcode, -⟩ := State.encode_of_decodeToken_got hread
  rw [State.tokenCode, if_pos hat.2] at hcode
  obtain rfl | rfl | ⟨L, hL⟩ := flag_effect_cases hcode
  · rw [exec_f0, State.atPhase_of_at hat'] at h
    obtain rfl := Host.Outcome.next.inj h
    exact .noRun _ rest hat hbits hread
  · rw [exec_runOvf, State.atPhase_of_at hat'] at h
    obtain rfl := Host.Outcome.next.inj h
    exact .tokenFail _ rest .runLengthOverflow (by decide) (.inl hat) hbits hread
  · obtain ⟨hpos, hfits⟩ := runOf_bounds hL
    rw [exec_of_runOf hL, State.atPhase_of_at hat'] at h
    obtain rfl := Host.Outcome.next.inj h
    refine .beginRun i rest (BitVec.ofNat 32 L) (fun hzero => ?_) hat hbits hread
    have := congrArg BitVec.toNat hzero
    rw [BitVec.toNat_ofNat, Nat.mod_eq_of_lt hfits] at this
    exact absurd this (Nat.one_le_iff_ne_zero.mp hpos)

/-- A raw token gives a literal or ends the stream (R142, R189). -/
theorem BlockMove.of_raw {rest : List Bool} (hat : s.At .dLit) (hraw : s.amode = .raw) (hbits : s.nleft ≠ 0)
    (hread : s.decodeToken (s.tok ++ s.unread) = .got i rest) (h : exec i (s.tokenTaken rest) = .next t) :
    BlockMove s t := by
  have hat' : (s.tokenTaken rest).At .dLit := hat
  have hraw' : (s.tokenTaken rest).amode = .raw := hraw
  obtain ⟨-, bits, hcode, -⟩ := State.encode_of_decodeToken_got hread
  rw [State.tokenCode, if_neg (by rw [hat.2]; decide), if_pos hraw] at hcode
  obtain rfl | ⟨c, hc⟩ := raw_effect_cases hcode
  · rw [exec_eosRaw, State.atRawLit_of_at hat' hraw'] at h
    obtain rfl := Host.Outcome.next.inj h
    exact .endOfStream hat hbits
  · rw [exec_of_rawByteOf hc, State.atRawLit_of_at hat' hraw'] at h
    obtain rfl := Host.Outcome.next.inj h
    exact .literal i rest c s.rank (.inl ⟨hraw, rfl⟩) hat hbits hread

/-- A rank token gives a literal, ends the stream, or raises (R145, R189). -/
theorem BlockMove.of_rank {rest : List Bool} (hat : s.At .dLit) (hrank : s.amode ≠ .raw) (hbits : s.nleft ≠ 0)
    (hread : s.decodeToken (s.tok ++ s.unread) = .got i rest) (h : exec i (s.tokenTaken rest) = .next t) :
    BlockMove s t := by
  have hat' : (s.tokenTaken rest).At .dLit := hat
  have hrank' : (s.tokenTaken rest).amode ≠ .raw := hrank
  obtain ⟨-, bits, hcode, -⟩ := State.encode_of_decodeToken_got hread
  rw [State.tokenCode, if_neg (by rw [hat.2]; decide), if_neg hrank] at hcode
  obtain rfl | rfl | ⟨v, rfl⟩ | ⟨n, hn⟩ := rank_effect_cases hcode
  · rw [exec_eosRank, State.atRankLit_of_at hat' hrank'] at h
    obtain rfl := Host.Outcome.next.inj h
    exact .endOfStream hat hbits
  · rw [exec_badRankPrefix, State.atRankLit_of_at hat' hrank'] at h
    obtain rfl := Host.Outcome.next.inj h
    exact .tokenFail _ rest .badRank (by decide) (.inr hat) hbits hread
  · rw [exec_badRankK5, State.atRankLit_of_at hat' hrank'] at h
    obtain rfl := Host.Outcome.next.inj h
    exact .tokenFail _ rest .badRank (by decide) (.inr hat) hbits hread
  · rw [exec_of_rankOfToken hn, State.atRankLit_of_at hat' hrank'] at h
    obtain rfl := Host.Outcome.next.inj h
    obtain ⟨-, hx⟩ | ⟨-, hx⟩ := (s.tokenTaken rest).rankLiteral_cases n <;> rw [hx]
    · exact .tokenFail i rest .freqOverflow (by decide) (.inr hat) hbits hread
    · exact .literal i rest _ _ (.inr ⟨hrank, rfl⟩) hat hbits hread

/-- The step at a token phase: the token is read and run, or its bits are kept. -/
theorem BlockMove.of_tokens (hat : s.At .dFlag ∨ s.At .dLit) (hbits : s.nleft ≠ 0) (h : blockStep s = .next t) :
    BlockMove s t := by
  cases hread : s.decodeToken (s.tok ++ s.unread) with
  | wait =>
    rw [blockStep_of_wait hat hbits hread] at h
    obtain rfl := Host.Outcome.next.inj h
    exact .tokenWait hat hbits hread
  | bad rest =>
    obtain hw | ⟨j, bits, r, -, -, -, hg⟩ := s.decodeToken_cases (s.tok ++ s.unread)
    · simp [hw] at hread
    · simp [hg] at hread
  | got i rest =>
    rw [blockStep_of_token hat hbits hread] at h
    obtain hat | hat := hat
    · exact .of_flag hat hbits hread h
    · by_cases hraw : s.amode = .raw
      · exact .of_raw hat hraw hbits hread h
      · exact .of_rank hat hraw hbits hread h

/-- Every step of the block is one of its moves. -/
theorem BlockMove.of_blockStep (h : blockStep s = .next t) : BlockMove s t := by
  by_cases henabled : s.blockEnabled = true
  case neg =>
    rw [blockStep, if_neg henabled] at h
    obtain rfl := Host.Outcome.next.inj h
    exact .rest (Bool.not_eq_true _ ▸ henabled)
  obtain ⟨hat, b, hbyte⟩ | ⟨hat, hbits⟩ | hat | ⟨hat, hbits⟩ | ⟨hat, hempty⟩ := State.blockEnabled_cases henabled
  · exact .of_header hat hbyte ((blockStep_dHdr hat hbyte).symm.trans h)
  · exact .of_tokens hat hbits h
  · rw [blockStep_dReplay hat] at h
    obtain rfl := Host.Outcome.next.inj h
    by_cases hfreq : s.freqOverflows s.predict
    · rw [State.replayByte_of_freqOverflows hfreq]
      exact .replayFail hat
    · rw [State.replayByte_eq hfreq, hat.2]
      exact .replay hat
  · obtain rfl := Host.Outcome.next.inj ((blockStep_dTail hat hbits).symm.trans h)
    exact .pad hat hbits
  · obtain rfl := Host.Outcome.next.inj ((blockStep_finish hat hempty).symm.trans h)
    exact .complete hat hempty

/-! ### What an operation of the host does -/

/-- The operation is a data beat, and the block accepts it. -/
def State.feeds (s : State) (i : Instr) : Prop := (∃ d, i = .inData d) ∧ s.inReady = true

/-- The operation is a START, and no stream is going on. -/
def State.begins (s : State) (i : Instr) : Prop := s.st ≠ .busy ∧ isStart i

/-- What an operation of the host, taken off its list, can make of s. -/
inductive HostMove (s : State) (i : Instr) : State → Prop
  | ignored (hfeed : ¬s.feeds i) (hbegin : ¬s.begins i) : HostMove s i s
  | cfg (dir : BitVec 1) (mode : BitVec 2) (hidle : s.st ≠ .busy) (hfeed : ¬s.feeds i) (hbegin : ¬s.begins i) :
      HostMove s i { s with ctrlDir := dir, ctrlMode := mode }
  | read (v : Word) (hfeed : ¬s.feeds i) (hbegin : ¬s.begins i) : HostMove s i { s with csrRdata := v }
  | hold (op : HostOp) (hfeed : ¬s.feeds i) (hbegin : ¬s.begins i) : HostMove s i (s.hold op)
  | out (b : Byte) (q : List Byte) (hqueue : s.outq = b :: q) (hfeed : ¬s.feeds i) (hbegin : ¬s.begins i) :
      HostMove s i { s with outq := q, outCount := s.outCount + 1, taken := b }
  | startCompress (mode : BitVec 2) (m : AMode) (hm : m ≠ .none) (hi : i = .startCRaw ∨ i = .startCRank)
      (hidle : s.st ≠ .busy) : HostMove s i (compressing mode m s)
  | startBad (mode : BitVec 2) (hi : i = .startCBad0 ∨ i = .startCBad3) (hidle : s.st ≠ .busy) :
      HostMove s i (failed .usage
        { s with ctrlDir := 0, ctrlMode := mode, inCount := 0, outCount := 0, adir := 0, amode := .none, outq := [] })
  | startDecompress (mode : BitVec 2) (hi : i = .startD mode) (hidle : s.st ≠ .busy) :
      HostMove s i (decompressing mode s)
  | encFail (d : Byte) (e : ErrCode) (hi : i = .inData d) (he : e ≠ .none) (hat : s.At .cBody) :
      HostMove s i (s.countIn.raise e)
  | encMatch (d : Byte) (hi : i = .inData d) (hat : s.At .cBody) :
      HostMove s i { s with
        inCount := s.inCount + 1, run := s.run + 1, ctx := nextCtx s.ctx d
        rank := if s.amode = .rank then s.rank.onMatchedByte d else s.rank }
  | encMiss (d acc : Byte) (nacc : Fin 8) (q : List Byte) (hi : i = .inData d) (hat : s.At .cBody) :
      HostMove s i { s with
        inCount := s.inCount + 1, run := 0, cb := Memory.write s.cb s.ctx.toNat d, ctx := nextCtx s.ctx d
        rank := if s.amode = .raw then s.rank else s.rank.onLiteralByte d, acc := acc, nacc := nacc, outq := q }
  | feedHeader (d : Byte) (hi : i = .inData d) (hat : s.At .dHdr) (hnone : s.hdrByte = none) :
      HostMove s i (s.feedHeader d)
  | feedBits (d : Byte) (hi : i = .inData d) (hat : s.At .dFlag ∨ s.At .dLit) (hempty : s.nleft = 0) :
      HostMove s i (s.feedBits d)
  | tailByte (d : Byte) (hi : i = .inData d) (hat : s.At .dTail) : HostMove s i s.countIn
  | encEnd (x acc : Byte) (nacc : Fin 8) (q : List Byte) (hi : i = .inEnd x) (hat : s.At .cBody) :
      HostMove s i { s with run := 0, phase := .cFinish, acc := acc, nacc := nacc, outq := q }
  | waitFail (x : Byte) (hi : i = .inEnd x) (hwait : s.waitsForByte) : HostMove s i (s.raise .unexpectedEnd)
  | tailEnd (x : Byte) (hi : i = .inEnd x) (hat : s.At .dTail) : HostMove s i { s with phase := .dFinish }

/-- A data beat is accepted and goes where its phase says, or is held. -/
theorem HostMove.of_inData {d : Byte} (h : exec (.inData d) s = .next t) : HostMove s (.inData d) t := by
  have hbegin : ¬s.begins (.inData d) := fun hb => by simp [State.begins, isStart] at hb
  by_cases hready : s.inReady = true
  case neg =>
    have hready' : s.inReady = false := Bool.not_eq_true _ ▸ hready
    obtain rfl := Host.Outcome.next.inj ((exec_inData_of_not_inReady hready' d).symm.trans h)
    exact .hold _ (fun hf => hready hf.2) hbegin
  obtain hat | hat | ⟨hat, hnone⟩ | ⟨hat, hempty⟩ := State.inReady_iff.mp hready
  · obtain rfl := Host.Outcome.next.inj ((exec_inData_of_at_cBody hat d).symm.trans h)
    obtain ⟨-, -, hx⟩ | ⟨-, -, hx⟩ | ⟨-, -, -, hx⟩ | ⟨hmiss, hfreq, -⟩ := s.encByte_cases d
    · exact hx ▸ .encFail d _ rfl (by decide) hat
    · exact hx ▸ .encFail d _ rfl (by decide) hat
    · exact hx ▸ .encMatch d rfl hat
    · obtain ⟨k, hk⟩ := exists_inClass (s.run.toNat - 1) 0
      obtain ⟨j, hj⟩ := exists_inClass (s.rank.order.idxOf d) 3
      exact (encByte_miss_record hmiss hfreq (fun _ => hk) hj).2 ▸ .encMiss d _ _ _ rfl hat
  · rw [exec_inData_of_inReady hready, State.acceptByte_of_at_dTail hat] at h
    obtain rfl := Host.Outcome.next.inj h
    exact .tailByte d rfl hat
  · obtain rfl := Host.Outcome.next.inj ((exec_inData_dHdr hat hnone d).symm.trans h)
    exact .feedHeader d rfl hat hnone
  · obtain rfl := Host.Outcome.next.inj ((exec_inData_bits hat hempty d).symm.trans h)
    exact .feedBits d rfl hat hempty

/-- An END beat is accepted and does what its phase says, or is held. -/
theorem HostMove.of_inEnd {x : Byte} (h : exec (.inEnd x) s = .next t) : HostMove s (.inEnd x) t := by
  by_cases hready : s.inReady = true
  case neg =>
    have hready' : s.inReady = false := Bool.not_eq_true _ ▸ hready
    obtain rfl := Host.Outcome.next.inj ((exec_inEnd_of_not_inReady hready' x).symm.trans h)
    exact .hold _ (fun hf => by simp [State.feeds] at hf) (fun hb => by simp [State.begins, isStart] at hb)
  obtain hat | hat | hwait := State.inReady_iff.mp hready
  · obtain rfl := Host.Outcome.next.inj ((exec_inEnd_of_at_cBody hat x).symm.trans h)
    obtain ⟨k, hk⟩ := exists_inClass (s.run.toNat - 1) 0
    obtain ⟨-, -, -, -, hframe⟩ := encEnd_record (fun _ => hk)
    exact hframe ▸ .encEnd x _ _ _ rfl hat
  · rw [exec_inEnd_of_inReady hready, State.acceptEnd_of_at_dTail hat] at h
    obtain rfl := Host.Outcome.next.inj h
    exact .tailEnd x rfl hat
  · rw [exec_inEnd_of_inReady hready, State.acceptEnd_of_waitsForByte hwait] at h
    obtain rfl := Host.Outcome.next.inj h
    exact .waitFail x rfl hwait

/-- OUT takes the head of the queue, or is held. -/
theorem HostMove.of_out (h : exec .out s = .next t) : HostMove s .out t := by
  have hfeed : ¬s.feeds .out := fun hf => by simp [State.feeds] at hf
  have hbegin : ¬s.begins .out := fun hb => by simp [State.begins, isStart] at hb
  obtain ⟨-, htake, hwait⟩ := outTakesTheHead s
  cases hq : s.outq with
  | nil =>
    obtain rfl := Host.Outcome.next.inj ((hwait hq).2.symm.trans h)
    exact .hold .take hfeed hbegin
  | cons b q =>
    obtain rfl := Host.Outcome.next.inj ((htake b q hq).2.symm.trans h)
    exact .out b q hq hfeed hbegin

/-- An operation of the host is none of the tokens. -/
theorem encode_of_decodeHost {op : HostOp} (h : decodeHost op = some i) : ∃ op', encode i = .host op' := by
  cases op with
  | read addr =>
    obtain rfl := Option.some.inj h
    rw [decodeRead_eq]
    split_ifs <;> exact ⟨_, rfl⟩
  | write addr w =>
    obtain rfl := Option.some.inj h
    rw [decodeWrite_eq, decodeCtrl_eq]
    split_ifs <;> exact ⟨_, rfl⟩
  | beat w =>
    obtain rfl := Option.some.inj h
    rw [decodeBeat]
    split_ifs <;> exact ⟨_, rfl⟩
  | take =>
    obtain rfl := Option.some.inj h
    exact ⟨_, rfl⟩
  | rst => nomatch h

/-- A CTRL write is ignored while BUSY. -/
theorem HostMove.of_ignored (hbusy : s.st = .busy) (hfeed : ¬s.feeds i) (hignored : exec i s = .next s)
    (h : exec i s = .next t) : HostMove s i t := by
  obtain rfl := Host.Outcome.next.inj (hignored.symm.trans h)
  exact .ignored hfeed fun hb => hb.1 hbusy

/-- A CTRL write while not BUSY stores its fields and starts what it says (R225). -/
theorem HostMove.of_cfg {dir : BitVec 1} {mode : BitVec 2} (h : exec (.cfg dir mode) s = .next t) :
    HostMove s (.cfg dir mode) t := by
  have hfeed : ¬s.feeds (.cfg dir mode) := fun hf => by simp [State.feeds] at hf
  have hbegin : ¬s.begins (.cfg dir mode) := fun hb => by simp [State.begins, isStart] at hb
  by_cases hbusy : s.st = .busy
  · exact .of_ignored hbusy hfeed ((ctrlWriteWhileBusyIsIgnored s hbusy).1 dir mode) h
  · obtain rfl := Host.Outcome.next.inj ((cfgStoresDirAndMode dir mode s hbusy).symm.trans h)
    exact .cfg dir mode hbusy hfeed hbegin

theorem HostMove.of_startC (hi : i = .startCRaw ∨ i = .startCRank) (h : exec i s = .next t) : HostMove s i t := by
  by_cases hbusy : s.st = .busy
  · obtain ⟨-, hraw, hrank, -⟩ := ctrlWriteWhileBusyIsIgnored s hbusy
    obtain rfl | rfl := hi
    · exact .of_ignored hbusy (fun hf => by simp [State.feeds] at hf) hraw h
    · exact .of_ignored hbusy (fun hf => by simp [State.feeds] at hf) hrank h
  · obtain ⟨hraw, hrank⟩ := startCompressBeginsAStream s hbusy
    obtain rfl | rfl := hi
    · obtain rfl := Host.Outcome.next.inj (hraw.symm.trans h)
      exact .startCompress 1 .raw (by decide) (.inl rfl) hbusy
    · obtain rfl := Host.Outcome.next.inj (hrank.symm.trans h)
      exact .startCompress 2 .rank (by decide) (.inr rfl) hbusy

theorem HostMove.of_startCBad (hi : i = .startCBad0 ∨ i = .startCBad3) (h : exec i s = .next t) : HostMove s i t := by
  by_cases hbusy : s.st = .busy
  · obtain ⟨-, -, -, hbad0, hbad3, -⟩ := ctrlWriteWhileBusyIsIgnored s hbusy
    obtain rfl | rfl := hi
    · exact .of_ignored hbusy (fun hf => by simp [State.feeds] at hf) hbad0 h
    · exact .of_ignored hbusy (fun hf => by simp [State.feeds] at hf) hbad3 h
  · obtain ⟨hbad, -⟩ := startWithBadModeRaisesUsage s hbusy
    obtain rfl | rfl := hi
    · obtain rfl := Host.Outcome.next.inj ((hbad _ 0 (.inl ⟨rfl, rfl⟩)).symm.trans h)
      exact .startBad 0 (.inl rfl) hbusy
    · obtain rfl := Host.Outcome.next.inj ((hbad _ 3 (.inr ⟨rfl, rfl⟩)).symm.trans h)
      exact .startBad 3 (.inr rfl) hbusy

theorem HostMove.of_startD {mode : BitVec 2} (h : exec (.startD mode) s = .next t) : HostMove s (.startD mode) t := by
  by_cases hbusy : s.st = .busy
  · obtain ⟨-, -, -, -, -, hstart⟩ := ctrlWriteWhileBusyIsIgnored s hbusy
    exact .of_ignored hbusy (fun hf => by simp [State.feeds] at hf) (hstart mode) h
  · obtain rfl := Host.Outcome.next.inj ((startDecompressBeginsAStream mode s hbusy).symm.trans h)
    exact .startDecompress mode rfl hbusy

/-- What an operation of the host makes of the state is one of the moves. -/
theorem HostMove.of_exec {op : HostOp} (hop : decodeHost op = some i) (h : exec i s = .next t) : HostMove s i t := by
  obtain ⟨op', hcode⟩ := encode_of_decodeHost hop
  cases i
  case inData d => exact .of_inData h
  case inEnd x => exact .of_inEnd h
  case out => exact .of_out h
  case wrStatus | wrInCount | wrOutCount | wrUnmapped =>
    obtain rfl := Host.Outcome.next.inj h
    exact .ignored (fun hf => by simp [State.feeds] at hf) (fun hb => by simp [State.begins, isStart] at hb)
  case rdCtrl | rdStatus | rdInCount | rdOutCount | rdUnmapped =>
    obtain rfl := Host.Outcome.next.inj h
    exact .read _ (fun hf => by simp [State.feeds] at hf) (fun hb => by simp [State.begins, isStart] at hb)
  case cfg => exact .of_cfg h
  case startCRaw => exact .of_startC (.inl rfl) h
  case startCRank => exact .of_startC (.inr rfl) h
  case startCBad0 => exact .of_startCBad (.inl rfl) h
  case startCBad3 => exact .of_startCBad (.inr rfl) h
  case startD => exact .of_startD h
  all_goals exact Code.noConfusion hcode

/-! ### A step -/

/-- The host moves only where its list is not empty. -/
theorem host_ne_nil_of_nextAgent (hagent : s.nextAgent = .host) : s.host ≠ [] := fun hnil => by
  simp [State.nextAgent, State.contested, hnil] at hagent

/-- A step, by who makes it: after the turn is used, it is a move of the block, the reset input, or what the host's
next operation does. -/
theorem step_moves (h : step s = .next t) :
    ∃ turns, (s.nextAgent = .block ∧ BlockMove { s with turns := turns } t) ∨
      (resetMoves s ∧ ∃ rest, t = State.applyReset { s with turns := turns, host := rest }) ∨
      (s.nextAgent = .host ∧ ∃ op rest i, s.host = op :: rest ∧ decodeHost op = some i ∧
        HostMove { s with turns := turns, host := rest } i t) := by
  refine ⟨s.useTurn.turns, ?_⟩
  cases hagent : s.nextAgent with
  | block =>
    rw [step_of_nextAgent_block hagent, State.useTurn_eq] at h
    exact .inl ⟨rfl, .of_blockStep h⟩
  | host =>
    rw [step_of_nextAgent_host hagent, State.useTurn_eq] at h
    obtain ⟨op, rest, hhost⟩ := List.exists_cons_of_ne_nil (host_ne_nil_of_nextAgent hagent)
    cases hop : decodeHost op with
    | none =>
      obtain rfl := decodeHost_eq_none hop
      rw [hostStep_rst (s := { s with turns := s.useTurn.turns }) hhost] at h
      exact .inr (.inl ⟨⟨hagent, rest, hhost⟩, rest, (Host.Outcome.next.inj h).symm⟩)
    | some i =>
      rw [hostStep_of_decode (s := { s with turns := s.useTurn.turns }) hhost hop] at h
      exact .inr (.inr ⟨rfl, op, rest, i, hhost, hop, .of_exec hop h⟩)

end Sys2Proof.Machine
end

section
/-! PROOFS of 10_state.md R35 with R27, R30, R37 and 43_rank_tracker.md R166: every step keeps the invariant. -/

namespace Sys2Proof.Machine

open Sys2Proof.Claims

variable {s t : State} {i : Instr}

/-! ### The parts of the invariant that do not speak of the phase -/

/-- The tables are as they should be in every state, a failed one too. -/
structure State.TablesInv (s : State) : Prop where
  memory : Memory.wf s.cb = true
  perm : s.rank.Perm
  front : s.rank.anchor = s.rank.front
  rawTable : s.amode = .raw → s.rank = RankTable.initial

theorem State.Inv.tables (h : s.Inv) : s.TablesInv := ⟨h.memory, h.perm, h.front, h.rawTable⟩

theorem State.tablesInv_of_initial (hcb : s.cb = []) (hrank : s.rank = RankTable.initial) : s.TablesInv where
  memory := hcb ▸ Memory.wf_nil
  perm := hrank ▸ RankTable.initial_perm
  front := by rw [hrank, RankTable.initial_anchor]
  rawTable := fun _ => hrank

/-- Nothing is claimed of a failed state beyond its tables (R309). -/
theorem State.TablesInv.raise {e : ErrCode} (h : s.TablesInv) (he : e ≠ .none) : (s.raise e).Inv where
  memory := h.memory
  perm := h.perm
  front := h.front
  rawTable := h.rawTable
  busy := by simp
  err := by simp [he]
  drained := fun _ => rfl
  place := trivial
  run := fun hne => absurd rfl hne
  rem := fun hne => absurd rfl hne
  reader := fun hbusy => nomatch hbusy
  paused := fun hne => absurd rfl hne
  header := fun hne => absurd rfl hne
  untouched := fun hphase => nomatch hphase

/-- Neither the host's list nor the turns enter the invariant. -/
theorem State.Inv.with_host (h : s.Inv) (turns : List Agent) (host : List HostOp) :
    ({ s with turns := turns, host := host } : State).Inv := { h with }

/-! ### The rank table after a byte -/

/-- The table after a matched or replayed byte (R163; rank mode only). -/
theorem State.Inv.matched (h : s.Inv) (c : Byte) :
    (if s.amode = .rank then s.rank.onMatchedByte c else s.rank).Perm ∧
    (if s.amode = .rank then s.rank.onMatchedByte c else s.rank).anchor =
      (if s.amode = .rank then s.rank.onMatchedByte c else s.rank).front ∧
    (s.amode = .raw → (if s.amode = .rank then s.rank.onMatchedByte c else s.rank) = RankTable.initial) := by
  split_ifs with hrank
  · exact ⟨h.perm.onMatchedByte c, h.perm.onMatchedByte_anchor h.front c, fun hraw => nomatch hrank.symm.trans hraw⟩
  · exact ⟨h.perm, h.front, h.rawTable⟩

/-- The table after a literal (R164; not in raw mode). -/
theorem State.Inv.literal {c : Byte} {r : RankTable} (h : s.Inv)
    (hr : (s.amode = .raw ∧ r = s.rank) ∨ (s.amode ≠ .raw ∧ r = s.rank.onLiteralByte c)) :
    r.Perm ∧ r.anchor = r.front ∧ (s.amode = .raw → r = RankTable.initial) := by
  obtain ⟨-, rfl⟩ | ⟨hnot, rfl⟩ := hr
  · exact ⟨h.perm, h.front, h.rawTable⟩
  · exact ⟨h.perm.onLiteralByte c, RankTable.onLiteralByte_anchor s.rank c, fun hraw => absurd hraw hnot⟩

/-! ### What a phase says -/

/-- STATE is neither ERROR nor has it an error code while a step may begin. -/
theorem State.Inv.no_error {p : Phase} (h : s.Inv) (hat : s.At p) : s.st ≠ .error ∧ s.err = .none := by
  have hst : s.st ≠ .error := by rw [hat.1]; decide
  exact ⟨hst, not_not.mp (mt h.err.mpr hst)⟩

theorem State.Inv.err_iff {p : Phase} (h : s.Inv) (hat : s.At p) (st : RunState) (hst : st ≠ .error) :
    st = .error ↔ s.err ≠ .none :=
  iff_of_false hst (not_not_intro (h.no_error hat).2)

/-- Outside C_BODY no run is pending. -/
theorem State.Inv.run_eq_zero {p : Phase} (h : s.Inv) (hat : s.At p) (hp : p ≠ .cBody) : s.run = 0 :=
  h.run (h.no_error hat).1 (hat.2 ▸ hp)

/-- Outside D_REPLAY nothing is left to replay. -/
theorem State.Inv.rem_eq_zero {p : Phase} (h : s.Inv) (hat : s.At p) (hp : p ≠ .dReplay) : s.rem = 0 :=
  not_not.mp (mt (h.rem (h.no_error hat).1).mpr (hat.2 ▸ hp))

/-- The bit reader is empty outside the token phases and D_REPLAY. -/
theorem State.Inv.nleft_eq_zero {p : Phase} (h : s.Inv) (hat : s.At p) (hflag : p ≠ .dFlag) (hreplay : p ≠ .dReplay)
    (hlit : p ≠ .dLit) : s.nleft = 0 := by
  by_contra hne
  have hphase := h.reader hat.1 hne
  rw [hat.2] at hphase
  simp [hflag, hreplay, hlit] at hphase

/-- A token is paused at a token phase only. -/
theorem State.Inv.tok_eq_nil {p : Phase} (h : s.Inv) (hp : s.phase = p) (hflag : p ≠ .dFlag) (hlit : p ≠ .dLit) :
    s.tok = [] := by
  by_contra hne
  have hphase := (h.paused hne).1
  rw [hp] at hphase
  simp [hflag, hlit] at hphase

/-- The header check holds a byte in D_HDR only. -/
theorem State.Inv.hdrByte_eq_none {p : Phase} (h : s.Inv) (hp : s.phase = p) (hhdr : p ≠ .dHdr) : s.hdrByte = none :=
  not_not.mp (mt h.header (hp ▸ hhdr))

/-- A phase that is not HALT, in the invariant: BUSY. -/
theorem busy_iff_of_ne_halt {st : RunState} {p : Phase} (hst : st = .busy) (hp : p ≠ .halt) :
    st = .busy ↔ p ≠ .halt := iff_of_true hst hp

theorem agrees_decompress {p : Phase} {dir : BitVec 1} {m : AMode} (hdir : dir = 1) (hm : m ≠ .none)
    (hp : p = .dFlag ∨ p = .dReplay ∨ p = .dLit ∨ p = .dTail ∨ p = .dFinish) : p.agrees dir m := by
  obtain rfl | rfl | rfl | rfl | rfl := hp <;> exact ⟨hdir, hm⟩

/-- In the phases after the header, the direction is decompress and the mode is known. -/
theorem State.Inv.decompress {p : Phase} (h : s.Inv) (hat : s.At p)
    (hp : p = .dFlag ∨ p = .dReplay ∨ p = .dLit ∨ p = .dTail ∨ p = .dFinish) : s.adir = 1 ∧ s.amode ≠ .none := by
  have hplace := h.place
  rw [hat.2] at hplace
  obtain rfl | rfl | rfl | rfl | rfl := hp <;> exact hplace

/-! ### The block's moves -/

/-- What a move between the phases after the header has to show. -/
theorem State.Inv.of_decompress (ht : t.TablesInv) (hbusy : t.st = .busy) (herr : t.err = .none) (hdir : t.adir = 1)
    (hmode : t.amode ≠ .none) (hrun : t.run = 0) (hhdr : t.hdrByte = none)
    (hp : t.phase = .dFlag ∨ t.phase = .dReplay ∨ t.phase = .dLit ∨ t.phase = .dTail ∨ t.phase = .dFinish)
    (hrem : t.phase = .dReplay ↔ t.rem ≠ 0)
    (hreader : t.nleft ≠ 0 → t.phase = .dFlag ∨ t.phase = .dReplay ∨ t.phase = .dLit)
    (hpaused : t.tok ≠ [] → (t.phase = .dFlag ∨ t.phase = .dLit) ∧ t.decodeToken t.tok = .wait) : t.Inv where
  memory := ht.memory
  perm := ht.perm
  front := ht.front
  rawTable := ht.rawTable
  busy := busy_iff_of_ne_halt hbusy (by obtain h | h | h | h | h := hp <;> rw [h] <;> decide)
  err := iff_of_false (by rw [hbusy]; decide) (not_not_intro herr)
  drained := fun hne => absurd hbusy hne
  place := agrees_decompress hdir hmode hp
  run := fun _ _ => hrun
  rem := fun _ => hrem
  reader := fun _ => hreader
  paused := hpaused
  header := fun hne => absurd hhdr hne
  untouched := fun hphase => by obtain h | h | h | h | h := hp <;> exact nomatch h.symm.trans hphase

theorem BlockMove.inv (h : s.Inv) (hmove : BlockMove s t) : t.Inv := by
  cases hmove with
  | rest => exact h
  | headerMagic hat hbyte =>
    exact { h with paused := h.paused, header := fun hne => absurd rfl hne, untouched := h.untouched }
  | headerMode m hm hat hbyte hidx =>
    have hplace := h.place
    rw [hat.2] at hplace
    have hempty := h.nleft_eq_zero hat (by decide) (by decide) (by decide)
    have htables := h.untouched hat.2
    exact .of_decompress (State.tablesInv_of_initial htables.1 htables.2.2) hat.1 (h.no_error hat).2 hplace.1 hm
      (h.run_eq_zero hat (by decide)) rfl (.inl rfl)
      (iff_of_false (by simp) (not_not_intro (h.rem_eq_zero hat (by decide)))) (fun hne => absurd hempty hne)
      (fun hne => absurd (h.tok_eq_nil hat.2 (by decide) (by decide)) hne)
  | headerFail hat hbyte => exact h.tables.raise (by decide)
  | noRun i rest hat hbits hread =>
    have hdir := h.decompress hat (.inl rfl)
    exact .of_decompress ⟨h.memory, h.perm, h.front, h.rawTable⟩ hat.1 (h.no_error hat).2 hdir.1 hdir.2
      (h.run_eq_zero hat (by decide)) (h.hdrByte_eq_none hat.2 (by decide)) (.inr (.inr (.inl rfl)))
      (iff_of_false (by simp) (not_not_intro (h.rem_eq_zero hat (by decide)))) (fun _ => .inr (.inr rfl))
      (fun hne => absurd rfl hne)
  | beginRun i rest L hL hat hbits hread =>
    have hdir := h.decompress hat (.inl rfl)
    exact .of_decompress ⟨h.memory, h.perm, h.front, h.rawTable⟩ hat.1 (h.no_error hat).2 hdir.1 hdir.2
      (h.run_eq_zero hat (by decide)) (h.hdrByte_eq_none hat.2 (by decide)) (.inr (.inl rfl))
      (iff_of_true rfl hL) (fun _ => .inr (.inl rfl)) (fun hne => absurd rfl hne)
  | literal i rest c r hr hat hbits hread =>
    have hdir := h.decompress hat (.inr (.inr (.inl rfl)))
    obtain ⟨hperm, hfront, hraw⟩ := h.literal hr
    exact .of_decompress ⟨Memory.write_wf h.memory s.ctx.isLt c, hperm, hfront, hraw⟩ hat.1 (h.no_error hat).2 hdir.1
      hdir.2 (h.run_eq_zero hat (by decide)) (h.hdrByte_eq_none hat.2 (by decide)) (.inl rfl)
      (iff_of_false (by simp) (not_not_intro (h.rem_eq_zero hat (by decide)))) (fun _ => .inl rfl)
      (fun hne => absurd rfl hne)
  | endOfStream hat hbits =>
    have hdir := h.decompress hat (.inr (.inr (.inl rfl)))
    exact .of_decompress ⟨h.memory, h.perm, h.front, h.rawTable⟩ hat.1 (h.no_error hat).2 hdir.1 hdir.2
      (h.run_eq_zero hat (by decide)) (h.hdrByte_eq_none hat.2 (by decide)) (.inr (.inr (.inr (.inl rfl))))
      (iff_of_false (by simp) (not_not_intro (h.rem_eq_zero hat (by decide)))) (fun hne => absurd rfl hne)
      (fun hne => absurd rfl hne)
  | tokenFail i rest e he hat hbits hread =>
    exact State.TablesInv.raise ⟨h.memory, h.perm, h.front, h.rawTable⟩ he
  | tokenWait hat hbits hread =>
    have hphase : s.phase = .dFlag ∨ s.phase = .dLit := hat.imp And.right And.right
    exact { h with
      reader := fun _ hne => absurd rfl hne
      paused := fun _ => ⟨hphase, hread⟩ }
  | replay hat =>
    have hdir := h.decompress hat (.inr (.inl rfl))
    obtain ⟨hperm, hfront, hraw⟩ := h.matched s.predict
    have hphase : (if s.rem = 1 then Phase.dLit else .dReplay) = .dReplay ↔ s.rem - 1 ≠ 0 := by
      rw [ne_eq, RunWord.sub_one_eq_zero_iff]
      split_ifs with hlast
      · exact iff_of_false (by decide) (not_not_intro hlast)
      · exact iff_of_true rfl hlast
    have hplace : (if s.rem = 1 then Phase.dLit else .dReplay) = .dReplay ∨
        (if s.rem = 1 then Phase.dLit else .dReplay) = .dLit := by
      split_ifs
      · exact .inr rfl
      · exact .inl rfl
    exact .of_decompress ⟨h.memory, hperm, hfront, hraw⟩ hat.1 (h.no_error hat).2 hdir.1 hdir.2
      (h.run_eq_zero hat (by decide)) (h.hdrByte_eq_none hat.2 (by decide))
      (.inr (hplace.imp_right .inl)) hphase (fun _ => .inr hplace)
      (fun hne => absurd (h.tok_eq_nil hat.2 (by decide) (by decide)) hne)
  | replayFail hat => exact h.tables.raise (by decide)
  | pad hat hbits => exact { h with reader := fun _ hne => absurd rfl hne, paused := h.paused }
  | complete hat hempty =>
    obtain ⟨p, hat, hcBody, hdHdr, hflag, hreplay, hlit⟩ : ∃ p, s.At p ∧ p ≠ .cBody ∧ p ≠ .dHdr ∧ p ≠ .dFlag ∧
        p ≠ .dReplay ∧ p ≠ .dLit := by
      obtain hat | hat := hat
      · exact ⟨_, hat, by decide, by decide, by decide, by decide, by decide⟩
      · exact ⟨_, hat, by decide, by decide, by decide, by decide, by decide⟩
    exact { h with
      busy := by simp
      err := h.err_iff hat .done (by decide)
      drained := fun _ => hempty
      place := trivial
      run := fun _ _ => h.run_eq_zero hat hcBody
      rem := fun _ => iff_of_false (by simp) (not_not_intro (h.rem_eq_zero hat hreplay))
      reader := fun hbusy => nomatch hbusy
      paused := fun hne => absurd (h.tok_eq_nil hat.2 hflag hlit) hne
      header := fun hne => absurd (h.hdrByte_eq_none hat.2 hdHdr) hne
      untouched := fun hphase => nomatch hphase }

/-! ### Reset and the host's operations -/

/-- Settles O3: the tables are the START ones and nothing is going on. -/
theorem invariantHoldsAtReset : Obligations.InvariantHoldsAtReset where
  memory := Memory.wf_nil
  perm := RankTable.initial_perm
  front := RankTable.initial_anchor
  rawTable := fun _ => rfl
  busy := by decide
  err := by decide
  drained := fun _ => rfl
  place := trivial
  run := fun _ _ => rfl
  rem := by decide
  reader := by decide
  paused := fun hne => absurd rfl hne
  header := fun hne => absurd rfl hne
  untouched := fun hphase => nomatch hphase

/-- Settles O1: each value is that field of the definition. -/
theorem resetStateHasTheSpecValues : Obligations.ResetStateHasTheSpecValues :=
  ⟨rfl, rfl, rfl, rfl, rfl, rfl, rfl, rfl, rfl, rfl, rfl, rfl⟩

theorem State.applyReset_inv (s : State) : s.applyReset.Inv := { invariantHoldsAtReset with }

theorem compressing_inv (mode : BitVec 2) {m : AMode} (hm : m ≠ .none) (s : State) : (compressing mode m s).Inv where
  memory := Memory.wf_nil
  perm := RankTable.initial_perm
  front := RankTable.initial_anchor
  rawTable := fun _ => rfl
  busy := busy_iff_of_ne_halt rfl (fun hphase => nomatch hphase)
  err := iff_of_false (fun hst => nomatch hst) (not_not_intro rfl)
  drained := fun hne => absurd rfl hne
  place := ⟨rfl, hm⟩
  run := fun _ _ => rfl
  rem := fun _ => iff_of_false (fun hphase => nomatch hphase) (not_not_intro rfl)
  reader := fun _ hne => absurd rfl hne
  paused := fun hne => absurd rfl hne
  header := fun hne => absurd rfl hne
  untouched := fun hphase => nomatch hphase

theorem decompressing_inv (mode : BitVec 2) (s : State) : (decompressing mode s).Inv where
  memory := Memory.wf_nil
  perm := RankTable.initial_perm
  front := RankTable.initial_anchor
  rawTable := fun _ => rfl
  busy := busy_iff_of_ne_halt rfl (fun hphase => nomatch hphase)
  err := iff_of_false (fun hst => nomatch hst) (not_not_intro rfl)
  drained := fun hne => absurd rfl hne
  place := ⟨rfl, rfl⟩
  run := fun _ _ => rfl
  rem := fun _ => iff_of_false (fun hphase => nomatch hphase) (not_not_intro rfl)
  reader := fun _ hne => absurd rfl hne
  paused := fun hne => absurd rfl hne
  header := fun _ => rfl
  untouched := fun _ => ⟨rfl, rfl, rfl⟩

/-- What a move of the compress direction has to show. -/
theorem State.Inv.of_compress (h : s.Inv) (hat : s.At .cBody) {cb : List Host.Cell} {r : RankTable} {ctx : Ctx}
    {run : RunWord} {p : Phase} {acc : Byte} {nacc : Fin 8} {q : List Byte} {n : CntWord}
    (hcb : Memory.wf cb = true)
    (hr : r.Perm ∧ r.anchor = r.front ∧ (s.amode = .raw → r = RankTable.initial))
    (hp : p = .cBody ∨ (p = .cFinish ∧ run = 0)) :
    ({ s with
      cb := cb, rank := r, ctx := ctx, run := run, phase := p, acc := acc, nacc := nacc, outq := q
      inCount := n } : State).Inv := by
  have hplace := h.place
  rw [hat.2] at hplace
  have hempty := h.nleft_eq_zero hat (by decide) (by decide) (by decide)
  have hne : p ≠ .halt ∧ p ≠ .dReplay ∧ p ≠ .dHdr := by obtain rfl | ⟨rfl, -⟩ := hp <;> decide
  exact {
    memory := hcb
    perm := hr.1
    front := hr.2.1
    rawTable := hr.2.2
    busy := busy_iff_of_ne_halt hat.1 hne.1
    err := h.err
    drained := fun hidle => absurd hat.1 hidle
    place := by obtain rfl | ⟨rfl, -⟩ := hp <;> exact hplace
    run := fun _ hbody => hp.elim (fun hp => absurd hp hbody) And.right
    rem := fun _ => iff_of_false hne.2.1 (not_not_intro (h.rem_eq_zero hat (by decide)))
    reader := fun _ hbits => absurd hempty hbits
    paused := fun htok => absurd (h.tok_eq_nil hat.2 (by decide) (by decide)) htok
    header := fun hbyte => absurd (h.hdrByte_eq_none hat.2 (by decide)) hbyte
    untouched := fun hphase => absurd hphase hne.2.2 }

theorem HostMove.inv (h : s.Inv) (hmove : HostMove s i t) : t.Inv := by
  cases hmove with
  | ignored => exact h
  | cfg dir mode => exact { h with }
  | read v => exact { h with }
  | hold op => exact { h with }
  | out b q hqueue =>
    exact { h with drained := fun hidle => absurd (h.drained hidle) (hqueue ▸ List.cons_ne_nil b q) }
  | startCompress mode m hm => exact compressing_inv mode hm s
  | startBad mode =>
    refine State.TablesInv.raise (s := { s with
      ctrlDir := 0, ctrlMode := mode, inCount := 0, outCount := 0, adir := 0, amode := .none, outq := [] })
      ⟨h.memory, h.perm, h.front, fun hraw => nomatch hraw⟩ (by decide)
  | startDecompress mode => exact decompressing_inv mode s
  | encFail d e hi he => exact State.TablesInv.raise ⟨h.memory, h.perm, h.front, h.rawTable⟩ he
  | encMatch d hi hat => exact h.of_compress hat h.memory (h.matched d) (.inl hat.2)
  | encMiss d acc nacc q hi hat =>
    have hr := h.literal (c := d) (r := if s.amode = .raw then s.rank else s.rank.onLiteralByte d)
      (by split_ifs with hraw
          · exact .inl ⟨hraw, rfl⟩
          · exact .inr ⟨hraw, rfl⟩)
    exact h.of_compress hat (Memory.write_wf h.memory s.ctx.isLt d) hr (.inl hat.2)
  | feedHeader d hi hat hnone => exact { h with header := fun _ => hat.2 }
  | feedBits d hi hat hempty =>
    exact { h with reader := fun _ _ => hat.elim (fun hat => .inl hat.2) (fun hat => .inr (.inr hat.2)) }
  | tailByte d => exact { h with }
  | encEnd x acc nacc q hi hat =>
    exact h.of_compress hat h.memory ⟨h.perm, h.front, h.rawTable⟩ (.inr ⟨rfl, rfl⟩)
  | waitFail x => exact h.tables.raise (by decide)
  | tailEnd x hi hat =>
    have hdir := h.decompress hat (.inr (.inr (.inr (.inl rfl))))
    exact .of_decompress ⟨h.memory, h.perm, h.front, h.rawTable⟩ hat.1 (h.no_error hat).2 hdir.1 hdir.2
      (h.run_eq_zero hat (by decide)) (h.hdrByte_eq_none hat.2 (by decide)) (.inr (.inr (.inr (.inr rfl))))
      (iff_of_false (by simp) (not_not_intro (h.rem_eq_zero hat (by decide))))
      (fun hne => absurd (h.nleft_eq_zero hat (by decide) (by decide) (by decide)) hne)
      (fun hne => absurd (h.tok_eq_nil hat.2 (by decide) (by decide)) hne)

/-! ### Every step -/

/-- Settles O51: by who makes the step; the turn used and the operation taken off the list play no part. -/
theorem everyStepKeepsTheInvariant : Obligations.EveryStepKeepsTheInvariant := by
  intro s t h hstep
  obtain ⟨turns, ⟨-, hmove⟩ | ⟨-, rest, rfl⟩ | ⟨-, op, rest, i, -, -, hmove⟩⟩ := step_moves hstep
  · exact hmove.inv (h.with_host turns s.host)
  · exact State.applyReset_inv _
  · exact hmove.inv (h.with_host turns rest)

end Sys2Proof.Machine
end

section
/-! PROOFS of 44_stream_controller.md R192 and 10_state.md R27, R28, R37, R38: how a step changes the phase, STATE,
ADIR, AMODE and IN_COUNT. -/

namespace Sys2Proof.Machine

open Sys2Proof.Claims

variable {s t : State} {i : Instr}

/-! ### The phase and STATE -/

/-- The rows of the transition table that are moves of the block, from the state before: what triggers them, the new
phase and the new STATE (R192). -/
def blockRow (s t : State) : Prop :=
  (s.phase ≠ .halt ∧ t.phase = .halt ∧ t.st = .error) ∨
  (s.At .dHdr ∧ s.hidx = 3 ∧ t.At .dFlag) ∨
  (s.At .dFlag ∧ (t.At .dReplay ∨ t.At .dLit)) ∨
  (s.At .dReplay ∧ s.rem = 1 ∧ t.At .dLit) ∨
  (s.At .dLit ∧ (t.At .dFlag ∨ t.At .dTail)) ∨
  ((s.At .cFinish ∨ s.At .dFinish) ∧ s.outq = [] ∧ t.phase = .halt ∧ t.st = .done)

theorem ne_halt_of_at {p : Phase} (hat : s.At p) (hp : p ≠ .halt) : s.phase ≠ .halt := hat.2 ▸ hp

/-- A move of the block leaves the phase and STATE, or is one of its rows. -/
theorem BlockMove.phase_cases (hmove : BlockMove s t) : (t.phase = s.phase ∧ t.st = s.st) ∨ blockRow s t := by
  cases hmove with
  | rest | headerMagic | tokenWait | pad => exact .inl ⟨rfl, rfl⟩
  | headerMode m hm hat hbyte hidx => exact .inr (.inr (.inl ⟨hat, hidx, hat.1, rfl⟩))
  | headerFail hat | replayFail hat => exact .inr (.inl ⟨ne_halt_of_at hat (by decide), rfl, rfl⟩)
  | noRun i rest hat => exact .inr (.inr (.inr (.inl ⟨hat, .inr ⟨hat.1, rfl⟩⟩)))
  | beginRun i rest L hL hat => exact .inr (.inr (.inr (.inl ⟨hat, .inl ⟨hat.1, rfl⟩⟩)))
  | literal i rest c r hr hat => exact .inr (.inr (.inr (.inr (.inr (.inl ⟨hat, .inl ⟨hat.1, rfl⟩⟩)))))
  | endOfStream hat => exact .inr (.inr (.inr (.inr (.inr (.inl ⟨hat, .inr ⟨hat.1, rfl⟩⟩)))))
  | tokenFail i rest e he hat =>
    refine .inr (.inl ⟨?_, rfl, rfl⟩)
    exact hat.elim (fun hat => ne_halt_of_at hat (by decide)) (fun hat => ne_halt_of_at hat (by decide))
  | replay hat =>
    by_cases hlast : s.rem = 1
    · exact .inr (.inr (.inr (.inr (.inl ⟨hat, hlast, hat.1, if_pos hlast⟩))))
    · exact .inl ⟨(if_neg hlast).trans hat.2.symm, rfl⟩
  | complete hat hempty => exact .inr (.inr (.inr (.inr (.inr (.inr ⟨hat, hempty, rfl, rfl⟩)))))

/-- The rows that are operations of the host. -/
def hostRow (s : State) (i : Instr) (t : State) : Prop :=
  (s.phase ≠ .halt ∧ t.phase = .halt ∧ t.st = .error) ∨
  (s.st ≠ .busy ∧ (i = .startCRaw ∨ i = .startCRank) ∧ t.At .cBody) ∨
  (s.st ≠ .busy ∧ (i = .startCBad0 ∨ i = .startCBad3) ∧ t.phase = .halt ∧ t.st = .error) ∨
  (s.st ≠ .busy ∧ (∃ m, i = .startD m) ∧ t.At .dHdr ∧ t.hidx = 0) ∨
  (s.At .cBody ∧ (∃ x, i = .inEnd x) ∧ t.At .cFinish) ∨
  (s.At .dTail ∧ (∃ x, i = .inEnd x) ∧ t.At .dFinish)

/-- An operation of the host leaves the phase and STATE, or is one of its rows. -/
theorem HostMove.phase_cases (hmove : HostMove s i t) : (t.phase = s.phase ∧ t.st = s.st) ∨ hostRow s i t := by
  cases hmove with
  | ignored | cfg | read | hold | out | encMatch | encMiss | feedHeader | feedBits | tailByte => exact .inl ⟨rfl, rfl⟩
  | startCompress mode m hm hi hidle => exact .inr (.inr (.inl ⟨hidle, hi, rfl, rfl⟩))
  | startBad mode hi hidle => exact .inr (.inr (.inr (.inl ⟨hidle, hi, rfl, rfl⟩)))
  | startDecompress mode hi hidle => exact .inr (.inr (.inr (.inr (.inl ⟨hidle, ⟨mode, hi⟩, ⟨rfl, rfl⟩, rfl⟩))))
  | encFail d e hi he hat => exact .inr (.inl ⟨ne_halt_of_at hat (by decide), rfl, rfl⟩)
  | encEnd x acc nacc q hi hat => exact .inr (.inr (.inr (.inr (.inr (.inl ⟨hat, ⟨x, hi⟩, hat.1, rfl⟩)))))
  | waitFail x hi hwait =>
    refine .inr (.inl ⟨?_, rfl, rfl⟩)
    obtain ⟨hat, -⟩ | ⟨hat | hat, -⟩ := hwait <;> exact ne_halt_of_at hat (by decide)
  | tailEnd x hi hat => exact .inr (.inr (.inr (.inr (.inr (.inr ⟨hat, ⟨x, hi⟩, hat.1, rfl⟩)))))

/-- Settles O52: each row of the block and of the host is a row of the table. -/
theorem phaseChangesFollowTheTable : Obligations.PhaseChangesFollowTheTable := by
  intro s t h hstep hchange
  obtain ⟨turns, ⟨hagent, hmove⟩ | ⟨hreset, rest, rfl⟩ | ⟨hagent, op, rest, i, hhost, hop, hmove⟩⟩ := step_moves hstep
  · have hrow := hmove.phase_cases.resolve_left fun hsame => hchange.elim (· hsame.1) (· hsame.2)
    obtain hfail | ⟨hat, hidx, hto⟩ | ⟨hat, hto⟩ | ⟨hat, hrem, hto⟩ | ⟨hat, hto⟩ | ⟨hat, hempty, hto⟩ := hrow
    · exact .inr (.inl hfail)
    all_goals refine .inr (.inr ?_)
    · rw [show s.phase = _ from hat.2]
      exact ⟨hagent, hidx, hto.2, hto.1⟩
    · rw [show s.phase = _ from hat.2]
      exact ⟨hagent, hto.symm.elim (fun hto => ⟨.inr hto.2, hto.1⟩) (fun hto => ⟨.inl hto.2, hto.1⟩)⟩
    · rw [show s.phase = _ from hat.2]
      exact ⟨hagent, hrem, hto.2, hto.1⟩
    · rw [show s.phase = _ from hat.2]
      exact ⟨hagent, hto.elim (fun hto => ⟨.inl hto.2, hto.1⟩) (fun hto => ⟨.inr hto.2, hto.1⟩)⟩
    · obtain hat | hat := hat <;> rw [show s.phase = _ from hat.2] <;> exact ⟨hagent, hempty, hto⟩
  · exact .inl ⟨hreset, rfl, rfl⟩
  · have hmoves {p : Instr → Prop} (hp : p i) : hostMoves s p := ⟨hagent, op, rest, i, hhost, hop, hp⟩
    have hhalt (hidle : s.st ≠ .busy) : s.phase = .halt := not_not.mp (mt h.busy.mpr hidle)
    have hrow := hmove.phase_cases.resolve_left fun hsame => hchange.elim (· hsame.1) (· hsame.2)
    obtain hfail | ⟨hidle, hi, hto⟩ | ⟨hidle, hi, hto⟩ | ⟨hidle, hi, hto, hidx⟩ | ⟨hat, hi, hto⟩ | ⟨hat, hi, hto⟩ :=
      hrow
    · exact .inr (.inl hfail)
    all_goals refine .inr (.inr ?_)
    · rw [hhalt hidle]
      exact .inl ⟨hmoves hi, hto.2, hto.1⟩
    · rw [hhalt hidle]
      exact .inr (.inl ⟨hmoves hi, hto⟩)
    · rw [hhalt hidle]
      exact .inr (.inr ⟨hmoves hi, hto.2, hidx, hto.1⟩)
    · rw [show s.phase = _ from hat.2]
      exact ⟨hmoves hi, hto.2, hto.1⟩
    · rw [show s.phase = _ from hat.2]
      exact ⟨hmoves hi, hto.2, hto.1⟩

/-! ### STATE, ADIR and AMODE -/

/-- Settles O53: of the rows of the table, those that leave BUSY are the error entry, COMPLETE and reset, and those that
leave HALT are reset and the STARTs. -/
theorem stateChangesOnlyAsStated : Obligations.StateChangesOnlyAsStated := by
  intro s t h hstep
  by_cases hsame : t.st = s.st
  · exact ⟨fun hbusy => .inl (hsame.trans hbusy), fun _ => .inl hsame⟩
  obtain hrow | ⟨hphase, -, hfail⟩ | hrow := phaseChangesFollowTheTable s t h hstep (.inr hsame)
  · exact ⟨fun _ => .inr (.inr (.inr hrow.1)), fun _ => .inr (.inl hrow.1)⟩
  · have herr := (everyStepKeepsTheInvariant s t h hstep).err.mp hfail
    have hbusy := h.busy.mpr hphase
    exact ⟨fun _ => .inr (.inr (.inl ⟨hfail, herr⟩)), fun hst => by simp [hbusy] at hst⟩
  constructor
  case left =>
    intro hbusy
    have hnot : t.st ≠ .busy := fun ht => hsame (ht.trans hbusy.symm)
    have hhalt := h.busy.mp hbusy
    cases hp : s.phase <;> simp only [hp] at hrow hhalt
    case halt => exact absurd rfl hhalt
    case cFinish => exact .inr (.inl ⟨hrow.2.2.2, .inl rfl, hrow.2.1⟩)
    case dFinish => exact .inr (.inl ⟨hrow.2.2.2, .inr rfl, hrow.2.1⟩)
    case dHdr | dReplay => exact absurd hrow.2.2.2 hnot
    case cBody | dFlag | dLit | dTail => exact absurd hrow.2.2 hnot
  case right =>
    intro hst
    have hidle : s.st ≠ .busy := by obtain hst | hst := hst <;> rw [hst] <;> decide
    rw [not_not.mp (mt h.busy.mpr hidle)] at hrow
    have hstart {p : Instr → Prop} (hm : hostMoves s p) (hp : ∀ i, p i → isStart i) : hostMoves s isStart := by
      obtain ⟨hagent, op, rest, i, hhost, hop, hi⟩ := hm
      exact ⟨hagent, op, rest, i, hhost, hop, hp i hi⟩
    refine .inr (.inr ?_)
    obtain ⟨hm, -⟩ | ⟨hm, -⟩ | ⟨hm, -⟩ := hrow
    · exact hstart hm fun i hi => hi.elim .inl fun hi => .inr (.inl hi)
    · exact hstart hm fun i hi => .inr (.inr (hi.elim .inl fun hi => .inr (.inl hi)))
    · exact hstart hm fun i hi => .inr (.inr (.inr (.inr hi)))

theorem BlockMove.adir_eq (hmove : BlockMove s t) : t.adir = s.adir := by
  cases hmove <;> rfl

theorem HostMove.adir_eq (hmove : HostMove s i t) (hbusy : s.st = .busy) : t.adir = s.adir := by
  cases hmove
  case startCompress hidle | startBad hidle | startDecompress hidle => exact absurd hbusy hidle
  all_goals rfl

/-- The block sets AMODE at the fourth header byte only, where it is still 0 (R27). -/
theorem BlockMove.amode_eq (hmove : BlockMove s t) (h : s.Inv) (hmode : s.amode ≠ .none) : t.amode = s.amode := by
  cases hmove
  case headerMode m hm hat hbyte hidx =>
    have hplace := h.place
    rw [hat.2] at hplace
    exact absurd hplace.2 hmode
  all_goals rfl

theorem HostMove.amode_eq (hmove : HostMove s i t) (hbusy : s.st = .busy) : t.amode = s.amode := by
  cases hmove
  case startCompress hidle | startBad hidle | startDecompress hidle => exact absurd hbusy hidle
  all_goals rfl

/-- Settles O54: while BUSY no START takes effect, and reset ends BUSY. -/
theorem modeAndDirectionAreFixedForTheStream : Obligations.ModeAndDirectionAreFixedForTheStream := by
  intro s t hstep hbusy hbusy'
  obtain ⟨turns, ⟨-, hmove⟩ | ⟨-, rest, rfl⟩ | ⟨-, op, rest, i, -, -, hmove⟩⟩ := step_moves hstep
  · exact ⟨hmove.adir_eq, fun h hmode => hmove.amode_eq (h.with_host turns s.host) hmode⟩
  · exact nomatch hbusy'
  · exact ⟨hmove.adir_eq hbusy, fun _ _ => hmove.amode_eq hbusy⟩

/-! ### IN_COUNT -/

theorem BlockMove.inCount_eq (hmove : BlockMove s t) : t.inCount = s.inCount := by
  cases hmove <;> rfl

/-- An operation of the host counts a beat that is accepted, clears the count at a START, and else leaves it (R38). -/
theorem HostMove.inCount_cases (hmove : HostMove s i t) :
    (s.feeds i ∧ ¬s.begins i ∧ t.inCount = s.inCount + 1) ∨ (¬s.feeds i ∧ s.begins i ∧ t.inCount = 0) ∨
    (¬s.feeds i ∧ ¬s.begins i ∧ t.inCount = s.inCount) := by
  have hdata {d : Byte} (hi : i = .inData d) : ¬s.begins i := fun hb => by simp [hi, State.begins, isStart] at hb
  have hend {x : Byte} (hi : i = .inEnd x) : ¬s.feeds i ∧ ¬s.begins i := by
    simp [hi, State.feeds, State.begins, isStart]
  have hstart (hi : isStart i) : ¬s.feeds i := fun hf => by
    obtain ⟨d, rfl⟩ := hf.1
    simp [isStart] at hi
  cases hmove with
  | ignored hfeed hbegin => exact .inr (.inr ⟨hfeed, hbegin, rfl⟩)
  | cfg _ _ _ hfeed hbegin => exact .inr (.inr ⟨hfeed, hbegin, rfl⟩)
  | read _ hfeed hbegin => exact .inr (.inr ⟨hfeed, hbegin, rfl⟩)
  | hold _ hfeed hbegin => exact .inr (.inr ⟨hfeed, hbegin, rfl⟩)
  | out _ _ _ hfeed hbegin => exact .inr (.inr ⟨hfeed, hbegin, rfl⟩)
  | startCompress mode m hm hi hidle =>
    have hs : isStart i := hi.elim .inl fun hi => .inr (.inl hi)
    exact .inr (.inl ⟨hstart hs, ⟨hidle, hs⟩, rfl⟩)
  | startBad mode hi hidle =>
    have hs : isStart i := .inr (.inr (hi.elim .inl fun hi => .inr (.inl hi)))
    exact .inr (.inl ⟨hstart hs, ⟨hidle, hs⟩, rfl⟩)
  | startDecompress mode hi hidle =>
    have hs : isStart i := .inr (.inr (.inr (.inr ⟨mode, hi⟩)))
    exact .inr (.inl ⟨hstart hs, ⟨hidle, hs⟩, rfl⟩)
  | encFail d e hi he hat => exact .inl ⟨⟨⟨d, hi⟩, State.inReady_of_at_cBody hat⟩, hdata hi, rfl⟩
  | encMatch d hi hat => exact .inl ⟨⟨⟨d, hi⟩, State.inReady_of_at_cBody hat⟩, hdata hi, rfl⟩
  | encMiss d acc nacc q hi hat => exact .inl ⟨⟨⟨d, hi⟩, State.inReady_of_at_cBody hat⟩, hdata hi, rfl⟩
  | feedHeader d hi hat hnone =>
    exact .inl ⟨⟨⟨d, hi⟩, State.inReady_of_waitsForByte (.inl ⟨hat, hnone⟩)⟩, hdata hi, rfl⟩
  | feedBits d hi hat hempty =>
    exact .inl ⟨⟨⟨d, hi⟩, State.inReady_of_waitsForByte (.inr ⟨hat, hempty⟩)⟩, hdata hi, rfl⟩
  | tailByte d hi hat => exact .inl ⟨⟨⟨d, hi⟩, State.inReady_of_at_dTail hat⟩, hdata hi, rfl⟩
  | encEnd x acc nacc q hi | waitFail x hi | tailEnd x hi => exact .inr (.inr ⟨(hend hi).1, (hend hi).2, rfl⟩)

/-- Whose operation it is, is the one at the head of the list. -/
theorem hostMoves_iff {op : HostOp} {rest : List HostOp} (hagent : s.nextAgent = .host) (hhost : s.host = op :: rest)
    (hop : decodeHost op = some i) {p : Instr → Prop} : hostMoves s p ↔ p i := by
  constructor
  · rintro ⟨-, op', rest', i', hhost', hop', hp⟩
    obtain ⟨rfl, -⟩ := List.cons.inj (hhost.symm.trans hhost')
    exact Option.some.inj (hop.symm.trans hop') ▸ hp
  · exact fun hp => ⟨hagent, op, rest, i, hhost, hop, hp⟩

theorem not_hostMoves_of_block (hagent : s.nextAgent = .block) {p : Instr → Prop} : ¬hostMoves s p :=
  fun hm => nomatch hagent.symm.trans hm.1

/-- Settles O57: the three cases of the host's operation, with reset in the second and the block's moves in the
third. -/
theorem inCountCountsAcceptedDataBeats : Obligations.InCountCountsAcceptedDataBeats := by
  intro s t hstep
  obtain ⟨turns, ⟨hagent, hmove⟩ | ⟨hreset, rest, rfl⟩ | ⟨hagent, op, rest, i, hhost, hop, hmove⟩⟩ := step_moves hstep
  · refine ⟨fun hf => absurd hf.1 (not_hostMoves_of_block hagent), fun hb => ?_, fun _ _ _ => hmove.inCount_eq⟩
    obtain hb | hb := hb
    · exact nomatch hagent.symm.trans hb.1
    · exact absurd hb.2 (not_hostMoves_of_block hagent)
  · refine ⟨fun hf => ?_, fun _ => rfl, fun _ hnot => absurd hreset hnot⟩
    obtain ⟨⟨-, op, rest', i, hhost, hop, -⟩, -⟩ := hf
    obtain ⟨-, rest'', hrst⟩ := hreset
    obtain ⟨rfl, -⟩ := List.cons.inj (hhost.symm.trans hrst)
    exact nomatch hop
  · have hnot : ¬resetMoves s := fun ⟨_, rest', hrst⟩ => by
      obtain ⟨rfl, -⟩ := List.cons.inj (hhost.symm.trans hrst)
      exact nomatch hop
    simp only [hostMoves_iff hagent hhost hop, hnot, false_or, not_false_iff]
    obtain ⟨hfeed, hbegin, hcount⟩ | ⟨hfeed, hbegin, hcount⟩ | ⟨hfeed, hbegin, hcount⟩ := hmove.inCount_cases
    · exact ⟨fun _ => hcount, fun hb => absurd hb hbegin, fun hf => absurd hfeed hf⟩
    · exact ⟨fun hf => absurd hf hfeed, fun _ => hcount, fun _ _ hb => absurd hbegin hb⟩
    · exact ⟨fun hf => absurd hf hfeed, fun hb => absurd hb hbegin, fun _ _ _ => hcount⟩

/-! ### COMPLETE -/

theorem BlockMove.st_ne_done (hmove : BlockMove s t) (hat : s.At .cFinish ∨ s.At .dFinish) (hqueue : s.outq ≠ []) :
    t.st ≠ .done := by
  have hbusy : s.st ≠ .done := by obtain hat | hat := hat <;> rw [hat.1] <;> decide
  cases hmove
  case complete hempty => exact absurd hempty hqueue
  case headerFail | tokenFail | replayFail => exact fun hst => nomatch hst
  all_goals exact hbusy

theorem HostMove.st_ne_done (hmove : HostMove s i t) (hat : s.At .cFinish ∨ s.At .dFinish) : t.st ≠ .done := by
  have hbusy : s.st ≠ .done := by obtain hat | hat := hat <;> rw [hat.1] <;> decide
  cases hmove
  case startCompress | startDecompress | startBad | encFail | waitFail => exact fun hst => nomatch hst
  all_goals exact hbusy

/-- Settles O32: COMPLETE is the block's only step at the two FINISH phases, and needs an empty queue. -/
theorem completeWaitsForTheQueue : Obligations.CompleteWaitsForTheQueue := by
  intro s hat
  refine ⟨fun hempty hagent => ?_, fun hqueue t hstep => ?_, fun hqueue hhost => ?_⟩
  · rw [step_of_nextAgent_block hagent, State.useTurn_eq]
    exact blockStep_finish (s := { s with turns := s.useTurn.turns }) hat hempty
  · obtain ⟨turns, ⟨-, hmove⟩ | ⟨-, rest, rfl⟩ | ⟨-, op, rest, i, -, -, hmove⟩⟩ := step_moves hstep
    · exact hmove.st_ne_done hat hqueue
    · exact fun hst => nomatch hst
    · exact hmove.st_ne_done hat
  · exact step_of_no_host_of_not_enabled hhost (State.not_enabled_of_finish hat hqueue)

end Sys2Proof.Machine
end

section
/-! PROOFS of 45_host_interface.md R228: with nothing more from the host, the block comes to rest. Each of its steps
takes a bit off the bit reader, or a byte off the replay or the header check, or ends the stream. -/

namespace Sys2Proof.Machine

open Sys2Proof.Claims

variable {s t : State} {i : Instr}

/-! ### Reading a token that was not whole before -/

theorem unreadBits_length (o : PackOrder) (v : Byte) (n : Nat) : (unreadBits o v n).length = n := by
  induction n with
  | zero => rfl
  | succ n ih => rw [unreadBits, List.length_cons, ih]

theorem State.unread_length (s : State) : s.unread.length = s.nleft.val := unreadBits_length _ _ _

theorem State.decodeToken_nil (s : State) : s.decodeToken [] = .wait := by
  unfold State.decodeToken
  split_ifs <;> rfl

theorem State.Inv.tok_waits (h : s.Inv) : s.decodeToken s.tok = .wait := by
  by_cases hnil : s.tok = []
  · rw [hnil, State.decodeToken_nil]
  · exact (h.paused hnil).2

/-- What follows a token that p alone did not hold is a proper end of what follows p. -/
theorem State.decodeToken_rest {p q rest : List Bool} (hwait : s.decodeToken p = .wait)
    (hread : s.decodeToken (p ++ q) = .got i rest) : ∃ z, z ≠ [] ∧ q = z ++ rest := by
  obtain ⟨hwf, bits, hcode, hbits⟩ := State.encode_of_decodeToken_got hread
  obtain ⟨z, hz, hq⟩ | ⟨z, hp, -⟩ := List.append_eq_append_iff.mp hbits
  · refine ⟨z, fun hnil => ?_, hq⟩
    have hwhole := State.decodeToken_encode hwf hcode []
    rw [hnil, List.append_nil] at hz
    rw [List.append_nil, hz, hwait] at hwhole
    exact nomatch hwhole
  · have hwhole := State.decodeToken_encode hwf hcode z
    rw [← hp, hwait] at hwhole
    exact nomatch hwhole

/-- A token takes at least one of the unread bits. -/
theorem State.Inv.rest_lt (h : s.Inv) {rest : List Bool} (hread : s.decodeToken (s.tok ++ s.unread) = .got i rest) :
    (Fin.ofNat 9 rest.length).val < s.nleft.val := by
  obtain ⟨z, hz, hunread⟩ := State.decodeToken_rest h.tok_waits hread
  have hlen := congrArg List.length hunread
  have hpos := List.length_pos_iff.mpr hz
  rw [State.unread_length, List.length_append] at hlen
  exact (Nat.mod_le _ _).trans_lt (by omega)

/-! ### What is left to do -/

/-- How much the block has left to do on its own: unread bits first, then bytes to replay, then the header byte at hand,
then the end of the stream. -/
def State.weight (s : State) : Nat :=
  s.nleft.val * 2 ^ 34 + s.rem.toNat * 4 + (if s.hdrByte = none then 0 else 2) + (if s.phase = .halt then 0 else 1)

theorem State.weight_lt_of_nleft (h : t.nleft.val < s.nleft.val) : t.weight < s.weight := by
  have hrem := t.rem.isLt
  simp only [Config.runW] at hrem
  unfold State.weight
  split_ifs <;> omega

theorem State.weight_lt_of_rem (hnleft : t.nleft = s.nleft) (h : t.rem.toNat < s.rem.toNat) : t.weight < s.weight := by
  unfold State.weight
  rw [hnleft]
  split_ifs <;> omega

theorem State.weight_lt_of_header (hnleft : t.nleft = s.nleft) (hrem : t.rem = s.rem) (hbyte : s.hdrByte ≠ none)
    (hdone : t.hdrByte = none) : t.weight < s.weight := by
  unfold State.weight
  rw [hnleft, hrem, if_pos hdone, if_neg hbyte]
  split_ifs <;> omega

theorem State.weight_lt_of_halt (hnleft : t.nleft = s.nleft) (hrem : t.rem = s.rem) (hbyte : t.hdrByte = s.hdrByte)
    (hphase : s.phase ≠ .halt) (hhalt : t.phase = .halt) : t.weight < s.weight := by
  unfold State.weight
  rw [hnleft, hrem, hbyte, if_pos hhalt, if_neg hphase]
  omega

theorem toNat_sub_one_lt {r : BitVec 32} (h : r ≠ 0) : (r - 1).toNat < r.toNat := by bv_omega

/-- Every move of the block leaves less to do. -/
theorem BlockMove.weight_lt (hmove : BlockMove s t) (h : s.Inv) (henabled : s.blockEnabled = true) :
    t.weight < s.weight := by
  cases hmove with
  | rest hnot => exact absurd henabled (hnot ▸ Bool.false_ne_true)
  | headerMagic hat hbyte => exact State.weight_lt_of_header rfl rfl hbyte rfl
  | headerMode m hm hat hbyte => exact State.weight_lt_of_header rfl rfl hbyte rfl
  | headerFail hat hbyte => exact State.weight_lt_of_header rfl rfl hbyte rfl
  | noRun i rest hat hbits hread => exact State.weight_lt_of_nleft (h.rest_lt hread)
  | beginRun i rest L hL hat hbits hread => exact State.weight_lt_of_nleft (h.rest_lt hread)
  | literal i rest c r hr hat hbits hread => exact State.weight_lt_of_nleft (h.rest_lt hread)
  | tokenFail i rest e he hat hbits hread => exact State.weight_lt_of_nleft (h.rest_lt hread)
  | endOfStream hat hbits => exact State.weight_lt_of_nleft (Fin.pos_iff_ne_zero.mpr hbits)
  | tokenWait hat hbits => exact State.weight_lt_of_nleft (Fin.pos_iff_ne_zero.mpr hbits)
  | pad hat hbits => exact State.weight_lt_of_nleft (Fin.pos_iff_ne_zero.mpr hbits)
  | replay hat =>
    have hne : s.rem ≠ 0 := (h.rem (h.no_error hat).1).mp hat.2
    refine State.weight_lt_of_rem rfl ?_
    exact toNat_sub_one_lt hne
  | replayFail hat =>
    exact State.weight_lt_of_halt rfl rfl (h.hdrByte_eq_none hat.2 (by decide)).symm (ne_halt_of_at hat (by decide)) rfl
  | complete hat =>
    have hphase : s.phase ≠ .halt :=
      hat.elim (fun hat => ne_halt_of_at hat (by decide)) (fun hat => ne_halt_of_at hat (by decide))
    exact State.weight_lt_of_halt rfl rfl rfl hphase rfl

/-! ### Running -/

theorem BlockMove.host_eq (hmove : BlockMove s t) : t.host = s.host := by
  cases hmove <;> rfl

theorem run_zero (s : State) : Host.Core.run core 0 s = .next s := rfl

theorem run_succ {k : Nat} (h : step s = .next t) : Host.Core.run core (k + 1) s = Host.Core.run core k t := by
  have hcore : core.step s = .next t := h
  exact (Host.Core.run.eq_2 core s k).trans (by rw [hcore])

/-- With no host left, a step where the block is enabled is a move of the block. -/
theorem blockMove_of_no_host (hhost : s.host = []) (hstep : step s = .next t) :
    ∃ turns, BlockMove { s with turns := turns } t := by
  obtain ⟨turns, ⟨-, hmove⟩ | ⟨⟨-, rest, hrst⟩, -⟩ | ⟨-, op, rest, i, hop, -⟩⟩ := step_moves hstep
  · exact ⟨turns, hmove⟩
  · exact nomatch hhost.symm.trans hrst
  · exact nomatch hhost.symm.trans hop

/-- Settles O58: by induction on what is left to do. -/
theorem blockComesToRest : Obligations.BlockComesToRest := by
  intro s h hhost
  induction hw : s.weight using Nat.strong_induction_on generalizing s with
  | _ w ih =>
    by_cases henabled : s.blockEnabled = true
    · obtain ⟨t, hstep⟩ := everyStepAnswersNext.2 s
      obtain ⟨turns, hmove⟩ := blockMove_of_no_host hhost hstep
      have hlt : t.weight < s.weight := hmove.weight_lt (h.with_host turns s.host) henabled
      obtain ⟨k, u, hrun, hu⟩ := ih t.weight (hw ▸ hlt) t (everyStepKeepsTheInvariant s t h hstep)
        (hmove.host_eq.trans hhost) rfl
      exact ⟨k + 1, u, (run_succ hstep).trans hrun, hu⟩
    · exact ⟨0, s, run_zero s, h, Bool.not_eq_true _ ▸ henabled⟩

end Sys2Proof.Machine
end

section
/-! PROOFS of 00_scope.md R2 and 44_stream_controller.md R193: the token of a byte, and the two directions side by
side. -/

namespace Sys2Proof.Machine

open Sys2Proof.Claims

variable {s e d : State} {c : Byte}

/-! ### The token of a literal -/

theorem rankOfToken_rlitOfClass {k v : Nat} (hk : k ≤ 5) (hv : v < 2 ^ (3 + k)) (hn : vlcBase 3 k + v ≤ 255) :
    rankOfToken (rlitOfClass k v) = some (vlcBase 3 k + v) := by
  interval_cases k
  · exact congrArg some ((Nat.mod_eq_of_lt hv).trans (by simp))
  · exact congrArg (fun w => some (8 + w)) (Nat.mod_eq_of_lt hv)
  · exact congrArg (fun w => some (24 + w)) (Nat.mod_eq_of_lt hv)
  · exact congrArg (fun w => some (56 + w)) (Nat.mod_eq_of_lt hv)
  · exact congrArg (fun w => some (120 + w)) (Nat.mod_eq_of_lt hv)
  · have hle : v ≤ 7 := by
      have : 248 + v ≤ 255 := hn
      omega
    have hmod : v % 2 ^ 3 = v := Nat.mod_eq_of_lt (by omega)
    rw [rlitOfClass, if_pos hle]
    exact congrArg (fun w => some (248 + w)) hmod

/-- Every rank has its token, whose code is the rank's (R75, R77). -/
theorem exists_rank_token {j n : Nat} (hj : inClass j n 3) (hn : n ≤ 255) :
    ∃ i : Instr, i.wellFormed = true ∧ encode i = .rank (vlcCode j n 3) ∧ rankOfToken i = some n := by
  have hclass : j ≤ 5 := (underLimit_rank j).mp (underLimit_of_rank hj (by omega))
  obtain ⟨v, rfl⟩ := Nat.exists_eq_add_of_le (inClass_iff.mp hj).1
  have hv := inClass_add.mp hj
  refine ⟨rlitOfClass j v, rlitOfClass_wellFormed hclass hv, ?_, rankOfToken_rlitOfClass hclass hv hn⟩
  rw [encode_rlitOfClass hclass hv, rlitBits, vlcCode_eq, Nat.add_sub_cancel_left]

/-- Every byte has its raw token (R76). -/
theorem exists_raw_token (c : Byte) :
    ∃ i : Instr, i.wellFormed = true ∧ encode i = .raw (byteBits c ++ if c = 0xFF then [false] else []) ∧
      rawByteOf i = some c := by
  by_cases hff : c = 0xFF
  · subst hff
    exact ⟨.litFF, rfl, rfl, rfl⟩
  · refine ⟨.lit8 c, lit8_wellFormed.mpr fun h => hff (BitVec.eq_of_toNat_eq h), ?_, rfl⟩
    rw [if_neg hff, List.append_nil]
    rfl

/-- The literal token of a byte, by mode, j being the class of its rank (R146). -/
theorem exists_literal_token {j : Nat} (hlit : s.phase = .dLit) (hperm : s.rank.Perm)
    (hj : inClass j (s.rank.rankOf c) 3) :
    ∃ i : Instr, i.wellFormed = true ∧ encode i = s.tokenCode (literalBits s.amode j (s.rank.rankOf c) c) ∧
      (if s.amode = .raw then rawByteOf i = some c else rankOfToken i = some (s.rank.rankOf c)) := by
  rw [State.tokenCode, if_neg (by rw [hlit]; decide), literalBits]
  by_cases hraw : s.amode = .raw
  · simp only [if_pos hraw]
    exact exists_raw_token c
  · simp only [if_neg hraw]
    exact exists_rank_token hj (Nat.le_of_lt_succ (hperm.rankOf_lt c))

/-- The table after a literal (R164; not in raw mode). -/
def State.rankAfterLiteral (s : State) (c : Byte) : RankTable :=
  if s.amode = .raw then s.rank else s.rank.onLiteralByte c

/-- Reading the literal token of a byte whose counter has room gives the byte. -/
theorem exec_literal_token {i : Instr} (hat : s.At .dLit) (hperm : s.rank.Perm) (hfreq : ¬s.freqOverflows c)
    (hmode : s.amode = .rank ∨ s.amode = .raw)
    (hi : if s.amode = .raw then rawByteOf i = some c else rankOfToken i = some (s.rank.rankOf c)) :
    exec i s = .next (afterLiteral c { s with rank := s.rankAfterLiteral c }) := by
  by_cases hraw : s.amode = .raw
  · rw [if_pos hraw] at hi
    rw [State.rankAfterLiteral, if_pos hraw]
    exact rawLiteralsAreEmitted i c s hi hat hraw
  · rw [if_neg hraw] at hi
    rw [State.rankAfterLiteral, if_neg hraw]
    have hroom : (s.rank.freqOf c).toNat ≠ 2 ^ 32 - 1 := fun hfull => hfreq ⟨hmode.resolve_right hraw, hfull⟩
    exact (rankLiteralsAreEmitted i _ c s hi hat hraw (hperm.getElem?_rankOf c)).1 hroom

/-! ### Both directions -/

theorem sameTables.predict_eq (h : sameTables e d) : d.predict = e.predict := by
  obtain ⟨hcb, hctx, -, -⟩ := h
  rw [State.predict, State.predict, hcb, hctx]

theorem sameTables.freqOverflows_iff (h : sameTables e d) : d.freqOverflows c ↔ e.freqOverflows c := by
  obtain ⟨-, -, hrank, hmode⟩ := h
  rw [State.freqOverflows, State.freqOverflows, hrank, hmode]

/-- Settles O59: both steps make the same change to the same tables. -/
theorem directionsMirrorEachOther : Obligations.DirectionsMirrorEachOther := by
  intro c e d hat htables hperm hfreq
  obtain ⟨hcb, hctx, hrank, hmode⟩ := htables
  have hdfreq : ¬d.freqOverflows c := mt (sameTables.freqOverflows_iff ⟨hcb, hctx, hrank, hmode⟩).mp hfreq
  have hpredict : d.predict = e.predict := sameTables.predict_eq ⟨hcb, hctx, hrank, hmode⟩
  rw [exec_inData_of_at_cBody hat]
  constructor
  case left =>
    intro hmatch hroom hdat
    have hdmatch : d.predict = c := hpredict.trans hmatch
    rw [blockStep_dReplay hdat, State.encByte_of_match hmatch hroom hfreq,
      State.replayByte_eq (hdmatch.symm ▸ hdfreq), hdmatch]
    refine ⟨_, _, rfl, rfl, rfl, ⟨hcb, ?_, ?_, hmode⟩, hat.1, hdat.1⟩
    · exact congrArg (nextCtx · c) hctx
    · simp only [hrank, hmode]
  case right =>
    intro hmiss hdat hmode'
    obtain ⟨j, hj⟩ := exists_inClass (d.rank.rankOf c) 3
    have hdperm : d.rank.Perm := hrank.symm ▸ hperm
    obtain ⟨i, hwf, -, hi⟩ := exists_literal_token hdat.2 hdperm hj
    have hexec := exec_literal_token hdat hdperm hdfreq (hmode.symm ▸ hmode') hi
    rw [State.encByte_of_miss hmiss hfreq]
    rw [hrank, hmode] at hi
    refine ⟨i, _, _, rfl, hexec, hwf, hi, rfl, ⟨?_, ?_, ?_, ?_⟩, ?_, hdat.1⟩
    · simp [afterLiteral, hcb, hctx]
    · simp [afterLiteral, hctx]
    · simp [afterLiteral, State.rankAfterLiteral, hrank, hmode]
    · simp [afterLiteral, hmode]
    · simpa using hat.1

end Sys2Proof.Machine
end

section
/-! PROOFS of 44_stream_controller.md R197 and 70_reset_and_hazards.md R341: what CTRL.MODE, the last word read, `cur`
without unread bits and `hidx` outside the header reach. Two states that differ in these four fields only take the same
step; each operation is shown to commute with replacing them. -/

namespace Sys2Proof.Machine

open Sys2Proof.Claims

/-- s with the four fields replaced. -/
def State.overlay (mode : BitVec 2) (word : Word) (cur : Byte) (hidx : BitVec 2) (s : State) : State :=
  { s with ctrlMode := mode, csrRdata := word, cur := cur, hidx := hidx }

/-! ### The operations neither read nor write the four fields -/

/-- f commutes with replacing the four fields. -/
def Oblivious (f : State → State) : Prop :=
  ∀ mode word cur hidx s, f (State.overlay mode word cur hidx s) = State.overlay mode word cur hidx (f s)

theorem Oblivious.id : Oblivious id := fun _ _ _ _ _ => rfl

theorem Oblivious.comp {f g : State → State} (hg : Oblivious g) (hf : Oblivious f) : Oblivious (fun s => g (f s)) :=
  fun mode word cur hidx s => (congrArg g (hf mode word cur hidx s)).trans (hg mode word cur hidx (f s))

/-- A choice by what the four fields do not enter. -/
theorem Oblivious.ite {p : State → Prop} {f g : State → State} (hp : ∀ s, Decidable (p s))
    (hsame : ∀ mode word cur hidx s, p (State.overlay mode word cur hidx s) ↔ p s) (hf : Oblivious f)
    (hg : Oblivious g) :
    Oblivious (fun s => if p s then f s else g s) := by
  intro mode word cur hidx s
  dsimp only
  by_cases h : p s
  · rw [if_pos h, if_pos ((hsame mode word cur hidx s).mpr h), hf]
  · rw [if_neg h, if_neg (mt (hsame mode word cur hidx s).mp h), hg]

theorem oblivious_raise (e : ErrCode) : Oblivious (State.raise e) := fun _ _ _ _ _ => rfl
theorem oblivious_countIn : Oblivious State.countIn := fun _ _ _ _ _ => rfl
theorem oblivious_update (c : Byte) : Oblivious (State.update c) := fun _ _ _ _ _ => rfl
theorem oblivious_advance (c : Byte) : Oblivious (State.advance c) := fun _ _ _ _ _ => rfl
theorem oblivious_hold (op : HostOp) : Oblivious (State.hold op) := fun _ _ _ _ _ => rfl

theorem oblivious_trackMatch (c : Byte) : Oblivious (State.trackMatch c) :=
  .ite (fun _ => inferInstance) (fun _ _ _ _ _ => Iff.rfl) (fun _ _ _ _ _ => rfl) .id

theorem oblivious_putBit (b : Bool) : Oblivious (State.putBit b) := by
  intro mode word cur hidx s
  obtain ⟨hroom, h⟩ | ⟨hfull, h⟩ := s.putBit_cases b
  · rw [h]
    exact dif_pos hroom
  · rw [h]
    exact dif_neg (by change ¬s.nacc.val + 1 < 8; omega)

theorem oblivious_putList (bs : List Bool) : Oblivious (State.putList bs) := by
  induction bs with
  | nil => exact .id
  | cons b r ih => exact ih.comp (oblivious_putBit b)

theorem oblivious_padLoop (fuel : Nat) : Oblivious (State.padLoop fuel) := by
  induction fuel with
  | zero => exact .id
  | succ fuel ih =>
    exact .ite (fun _ => inferInstance) (fun _ _ _ _ _ => Iff.rfl) .id (ih.comp (oblivious_putBit false))

theorem oblivious_setRun (r : RunWord) : Oblivious (fun s => { s with run := r }) := fun _ _ _ _ _ => rfl

theorem oblivious_runFlush : Oblivious State.runFlush := by
  intro mode word cur hidx s
  have hputs : Oblivious (fun u => if 0 < s.run.toNat
      then (u.putBit true).putVLC (s.run.toNat - 1) Config.runB else u.putBit false) :=
    .ite (fun _ => inferInstance) (fun _ _ _ _ _ => Iff.rfl) ((oblivious_putList _).comp (oblivious_putBit true))
      (oblivious_putBit false)
  exact (oblivious_setRun 0).comp hputs mode word cur hidx s

theorem oblivious_litEncode (c : Byte) : Oblivious (State.litEncode c) := by
  refine .ite (fun _ => inferInstance) (fun _ _ _ _ _ => Iff.rfl) ?_ fun mode word cur hidx s => ?_
  · exact .ite (p := fun _ => c = Config.rawSentinel) (fun _ => inferInstance) (fun _ _ _ _ _ => Iff.rfl)
      ((oblivious_putBit false).comp (oblivious_putList _)) (oblivious_putList _)
  · exact oblivious_putList _ mode word cur hidx { s with rank := s.rank.onLiteralByte c }

theorem oblivious_eosEncode : Oblivious State.eosEncode :=
  .ite (fun _ => inferInstance) (fun _ _ _ _ _ => Iff.rfl) ((oblivious_putBit true).comp (oblivious_putList _))
    (oblivious_putList _)

theorem oblivious_encEnd : Oblivious State.encEnd := by
  have hphase : Oblivious (fun s => { s with phase := .cFinish }) := fun _ _ _ _ _ => rfl
  exact hphase.comp ((oblivious_padLoop 7).comp (oblivious_eosEncode.comp oblivious_runFlush))

/-- ENC_BYTE, by its overflow checks and the prediction. -/
theorem oblivious_encByte (c : Byte) : Oblivious (State.encByte c) := by
  have hmatch : Oblivious (fun s => ({ s with run := s.run + 1 }.trackMatch c).advance c) :=
    (oblivious_advance c).comp ((oblivious_trackMatch c).comp fun _ _ _ _ _ => rfl)
  have hmiss : Oblivious (fun s => ((s.runFlush.litEncode c).update c).advance c) :=
    (oblivious_advance c).comp ((oblivious_update c).comp ((oblivious_litEncode c).comp oblivious_runFlush))
  have hchecks : Oblivious (fun s => if s.predict = c then
      if s.run.toNat = 2 ^ Config.runW - 1 then s.raise .runCounterOverflow
      else if s.freqOverflows c then s.raise .freqOverflow
      else ({ s with run := s.run + 1 }.trackMatch c).advance c
    else if s.freqOverflows c then s.raise .freqOverflow else ((s.runFlush.litEncode c).update c).advance c) :=
    .ite (fun _ => inferInstance) (fun _ _ _ _ _ => Iff.rfl)
      (.ite (fun _ => inferInstance) (fun _ _ _ _ _ => Iff.rfl) (oblivious_raise _)
        (.ite (fun _ => inferInstance) (fun _ _ _ _ _ => Iff.rfl) (oblivious_raise _) hmatch))
      (.ite (fun _ => inferInstance) (fun _ _ _ _ _ => Iff.rfl) (oblivious_raise _) hmiss)
  exact hchecks.comp oblivious_countIn

theorem oblivious_replayByte : Oblivious State.replayByte := by
  intro mode word cur hidx s
  by_cases hfreq : s.freqOverflows s.predict
  · rw [State.replayByte_of_freqOverflows hfreq]
    exact State.replayByte_of_freqOverflows (s := s.overlay mode word cur hidx) hfreq
  · rw [State.replayByte_eq hfreq]
    exact State.replayByte_eq (s := s.overlay mode word cur hidx) hfreq

theorem oblivious_rankLiteral (n : Nat) : Oblivious (State.rankLiteral n) := by
  intro mode word cur hidx s
  by_cases hfull : s.rank.freqFull (s.rank.symbolAt n)
  · rw [State.rankLiteral_of_full hfull]
    exact State.rankLiteral_of_full (s := s.overlay mode word cur hidx) hfull
  · rw [State.rankLiteral_of_not_full hfull]
    exact State.rankLiteral_of_not_full (s := s.overlay mode word cur hidx) hfull

theorem Oblivious.atPhase {f : State → State} (hf : Oblivious f) (p : Phase) : Oblivious (State.atPhase p f) :=
  .ite (fun _ => inferInstance) (fun _ _ _ _ _ => Iff.rfl) hf .id

theorem Oblivious.atRawLit {f : State → State} (hf : Oblivious f) : Oblivious (State.atRawLit f) :=
  .ite (fun _ => inferInstance) (fun _ _ _ _ _ => Iff.rfl) hf .id

theorem Oblivious.atRankLit {f : State → State} (hf : Oblivious f) : Oblivious (State.atRankLit f) :=
  .ite (fun _ => inferInstance) (fun _ _ _ _ _ => Iff.rfl) hf .id

theorem oblivious_useTurn : Oblivious State.useTurn :=
  .ite (fun _ => inferInstance) (fun _ _ _ _ _ => Iff.rfl) (fun _ _ _ _ _ => rfl) .id

/-! ### What a step makes of two states that differ in the four fields -/

/-- u is s but for the four fields. -/
def State.Like (s u : State) : Prop := ∃ mode word cur hidx, u = s.overlay mode word cur hidx

variable {s t u w : State} {i : Instr}

/-- Where s goes to t and the like state u to w: w is like t, and what s and u agreed on of the four fields, t and w
agree on; `reads` says that the step returns CTRL's value to the host. -/
structure Follows (reads : Prop) (s u t w : State) : Prop where
  like : t.Like w
  mode : u.ctrlMode = s.ctrlMode → w.ctrlMode = t.ctrlMode
  word : u.csrRdata = s.csrRdata → (reads → u.ctrlMode = s.ctrlMode) → w.csrRdata = t.csrRdata
  cur : w.cur = t.cur ∨ (w.cur = u.cur ∧ t.cur = s.cur)
  hidx : w.hidx = t.hidx ∨ (w.hidx = u.hidx ∧ t.hidx = s.hidx)

theorem Follows.refl {reads : Prop} (h : s.Like u) : Follows reads s u s u :=
  ⟨h, id, fun h _ => h, .inr ⟨rfl, rfl⟩, .inr ⟨rfl, rfl⟩⟩

/-- An operation that commutes with replacing the four fields leaves them. -/
theorem Oblivious.eq_overlay {f : State → State} (hf : Oblivious f) (s : State) :
    f s = (f s).overlay s.ctrlMode s.csrRdata s.cur s.hidx := hf s.ctrlMode s.csrRdata s.cur s.hidx s

theorem Oblivious.follows {f : State → State} {reads : Prop} (hf : Oblivious f) (h : s.Like u) :
    Follows reads s u (f s) (f u) := by
  obtain ⟨mode, word, cur, hidx, rfl⟩ := h
  have hkeeps := hf.eq_overlay s
  have hmode : (f s).ctrlMode = s.ctrlMode := (congrArg State.ctrlMode hkeeps :)
  have hword : (f s).csrRdata = s.csrRdata := (congrArg State.csrRdata hkeeps :)
  have hcur : (f s).cur = s.cur := (congrArg State.cur hkeeps :)
  have hhidx : (f s).hidx = s.hidx := (congrArg State.hidx hkeeps :)
  rw [hf]
  exact ⟨⟨mode, word, cur, hidx, rfl⟩, fun h => h.trans hmode.symm, fun h _ => h.trans hword.symm,
    .inr ⟨rfl, hcur⟩, .inr ⟨rfl, hhidx⟩⟩

/-- A step from s has its like from u. -/
def StepFollows (reads : Prop) (run : State → Res) (s u : State) : Prop :=
  ∀ t, run s = .next t → ∃ w, run u = .next w ∧ Follows reads s u t w

/-- A step that is such an operation wherever `p` holds. -/
theorem Oblivious.stepFollows {f : State → State} {reads : Prop} {run : State → Res} {p : State → Prop}
    (hf : Oblivious f) (hrun : ∀ v, p v → run v = .next (f v)) (hs : p s) (hu : p u) (h : s.Like u) :
    StepFollows reads run s u := by
  intro t ht
  obtain rfl := Host.Outcome.next.inj ((hrun s hs).symm.trans ht)
  exact ⟨f u, hrun u hu, hf.follows h⟩

/-! ### The block's step -/

/-- A token the decoder reads is run by an operation that leaves the four fields. -/
theorem exec_token_oblivious {bs rest : List Bool} (hread : s.decodeToken bs = .got i rest) :
    ∃ f, Oblivious f ∧ ∀ v, exec i v = .next (f v) := by
  obtain ⟨-, bits, hcode, -⟩ := State.encode_of_decodeToken_got hread
  unfold State.tokenCode at hcode
  split_ifs at hcode
  · obtain rfl | rfl | ⟨L, hL⟩ := flag_effect_cases hcode
    · exact ⟨_, Oblivious.atPhase (fun _ _ _ _ _ => rfl) .dFlag, exec_f0⟩
    · exact ⟨_, (oblivious_raise _).atPhase .dFlag, exec_runOvf⟩
    · exact ⟨_, Oblivious.atPhase (fun _ _ _ _ _ => rfl) .dFlag, exec_of_runOf hL⟩
  · obtain rfl | ⟨c, hc⟩ := raw_effect_cases hcode
    · exact ⟨_, Oblivious.atRawLit (fun _ _ _ _ _ => rfl), exec_eosRaw⟩
    · exact ⟨_, Oblivious.atRawLit (fun _ _ _ _ _ => rfl), exec_of_rawByteOf hc⟩
  · obtain rfl | rfl | ⟨v, rfl⟩ | ⟨n, hn⟩ := rank_effect_cases hcode
    · exact ⟨_, Oblivious.atRankLit (fun _ _ _ _ _ => rfl), exec_eosRank⟩
    · exact ⟨_, (oblivious_raise _).atRankLit, exec_badRankPrefix⟩
    · exact ⟨_, (oblivious_raise _).atRankLit, fun x => exec_badRankK5 x v⟩
    · exact ⟨_, (oblivious_rankLiteral n).atRankLit, exec_of_rankOfToken hn⟩

/-- A header byte at place `hidx` is run by an operation that leaves the four fields, or passes on to the next place. -/
theorem exec_header_cases (hidx : BitVec 2) (b : Byte) :
    (∃ f, Oblivious f ∧ ∀ v : State, v.At .dHdr → v.hidx = hidx → exec (decodeHeader hidx b) v = .next (f v)) ∨
    ∀ v : State, v.At .dHdr → v.hidx = hidx → exec (decodeHeader hidx b) v = .next { v with hidx := v.hidx + 1 } := by
  rw [decodeHeader]
  by_cases hlt : hidx.toNat < 3
  · rw [if_pos hlt]
    have hmagic (v : State) (hat : v.At .dHdr) (hv : v.hidx = hidx) := (exec_hdrMagic_of_at hat b).trans
      (congrArg Host.Outcome.next (State.headerMagic_eq (k := ⟨hidx.toNat, hlt⟩) (hv ▸ rfl) b))
    by_cases hpass : b ≠ Config.magic ⟨hidx.toNat, hlt⟩
    · simp only [if_pos hpass] at hmagic
      exact .inl ⟨_, oblivious_raise .format, hmagic⟩
    · simp only [if_neg hpass] at hmagic
      exact .inr hmagic
  · have hfourth {v : State} (hv : v.hidx = hidx) : v.hidx = 3 := hidx_eq_three (hv ▸ hlt)
    have hmode (m : AMode) : Oblivious fun s => { s with amode := m, phase := .dFlag } := fun _ _ _ _ _ => rfl
    rw [if_neg hlt, decodeMode]
    refine .inl ?_
    split_ifs
    · exact ⟨_, hmode .raw, fun v hat hv =>
        (exec_hdrModeRaw_of_at hat).trans (congrArg _ (State.headerMode_of_hidx_eq_three (hfourth hv) _))⟩
    · exact ⟨_, hmode .rank, fun v hat hv =>
        (exec_hdrModeRank_of_at hat).trans (congrArg _ (State.headerMode_of_hidx_eq_three (hfourth hv) _))⟩
    · exact ⟨_, oblivious_raise .format, fun v hat hv =>
        (exec_hdrModeBad_of_at hat b).trans (congrArg _ (State.headerBad_of_hidx_eq_three (hfourth hv)))⟩

/-- The block's step, where it reads only what the two states agree on. -/
theorem blockStep_follows (h : s.Like u) (hcur : s.nleft = 0 ∨ u.cur = s.cur) (hhidx : s.At .dHdr → u.hidx = s.hidx) :
    StepFollows False blockStep s u := by
  obtain ⟨mode, word, cur, hidx, rfl⟩ := h
  have hlike {v : State} : v.Like (v.overlay mode word cur hidx) := ⟨_, _, _, _, rfl⟩
  by_cases henabled : s.blockEnabled = true
  case neg =>
    exact Oblivious.id.stepFollows (p := fun v => ¬v.blockEnabled = true) (fun v hv => if_neg hv) henabled henabled
      hlike
  obtain ⟨hat, b, hbyte⟩ | ⟨hat, hbits⟩ | hat | ⟨hat, hbits⟩ | ⟨hat, hempty⟩ := State.blockEnabled_cases henabled
  · obtain rfl : hidx = s.hidx := hhidx hat
    have hfetch (v : State) (hv : v.At .dHdr ∧ v.hdrByte = some b ∧ v.hidx = s.hidx) :
        blockStep v = exec (decodeHeader s.hidx b) { v with hdrByte := none } :=
      (blockStep_dHdr hv.1 hv.2.1).trans (by rw [hv.2.2])
    obtain ⟨f, hf, hrun⟩ | hrun := exec_header_cases s.hidx b
    · have hdrop : Oblivious fun v : State => f { v with hdrByte := none } := hf.comp fun _ _ _ _ _ => rfl
      exact hdrop.stepFollows (fun v hv => (hfetch v hv).trans (hrun _ hv.1 hv.2.2)) ⟨hat, hbyte, rfl⟩
        ⟨hat, hbyte, rfl⟩ hlike
    · intro t ht
      have hs := (hfetch s ⟨hat, hbyte, rfl⟩).trans (hrun _ hat rfl)
      have hu := (hfetch (s.overlay mode word cur s.hidx) ⟨hat, hbyte, rfl⟩).trans (hrun _ hat rfl)
      obtain rfl := Host.Outcome.next.inj (hs.symm.trans ht)
      exact ⟨_, hu, ⟨_, _, _, _, rfl⟩, id, fun h _ => h, .inr ⟨rfl, rfl⟩, .inl rfl⟩
  · obtain rfl : cur = s.cur := hcur.resolve_left hbits
    cases hread : s.decodeToken (s.tok ++ s.unread) with
    | got i rest =>
      obtain ⟨f, hf, hrun⟩ := exec_token_oblivious hread
      have htake : Oblivious fun v : State => f { v with tok := [], nleft := Fin.ofNat 9 rest.length } :=
        hf.comp fun _ _ _ _ _ => rfl
      exact htake.stepFollows (p := fun v => (v.At .dFlag ∨ v.At .dLit) ∧ v.nleft ≠ 0 ∧
          v.decodeToken (v.tok ++ v.unread) = .got i rest)
        (fun v hv => (blockStep_of_token hv.1 hv.2.1 hv.2.2).trans (hrun _)) ⟨hat, hbits, hread⟩ ⟨hat, hbits, hread⟩
        hlike
    | wait =>
      have hkeep : Oblivious fun v : State => { v with tok := s.tok ++ s.unread, nleft := 0 } := fun _ _ _ _ _ => rfl
      exact hkeep.stepFollows (p := fun v => (v.At .dFlag ∨ v.At .dLit) ∧ v.nleft ≠ 0 ∧
          v.tok ++ v.unread = s.tok ++ s.unread ∧ v.decodeToken (s.tok ++ s.unread) = .wait)
        (fun v hv => (blockStep_of_wait hv.1 hv.2.1 (hv.2.2.1 ▸ hv.2.2.2)).trans (by rw [hv.2.2.1]))
        ⟨hat, hbits, rfl, hread⟩ ⟨hat, hbits, rfl, hread⟩ hlike
    | bad rest =>
      obtain hw | ⟨j, bits, r, -, -, -, hg⟩ := s.decodeToken_cases (s.tok ++ s.unread)
      · simp [hw] at hread
      · simp [hg] at hread
  · exact oblivious_replayByte.stepFollows (fun v => blockStep_dReplay) hat hat hlike
  · have hempty : Oblivious fun v : State => { v with nleft := 0 } := fun _ _ _ _ _ => rfl
    exact hempty.stepFollows (p := fun v => v.At .dTail ∧ v.nleft ≠ 0) (fun v hv => blockStep_dTail hv.1 hv.2)
      ⟨hat, hbits⟩ ⟨hat, hbits⟩ hlike
  · have hcomplete : Oblivious State.complete := fun _ _ _ _ _ => rfl
    exact hcomplete.stepFollows (p := fun v => (v.At .cFinish ∨ v.At .dFinish) ∧ v.outq = [])
      (fun v hv => blockStep_finish hv.1 hv.2) ⟨hat, hempty⟩ ⟨hat, hempty⟩ hlike

/-! ### The host's operations -/

/-- A CTRL write that the two states answer alike: ignored while BUSY, else `act` gives the same state but for the
fields it sets. -/
theorem writeCtrl_follows {dir : BitVec 1} {mode' : BitVec 2} {act : State → State} {reads : Prop} (h : s.Like u)
    (hact : Follows reads s u (act { s with ctrlDir := dir, ctrlMode := mode' })
      (act { u with ctrlDir := dir, ctrlMode := mode' })) :
    StepFollows reads (fun v => .next (v.writeCtrl dir mode' act)) s u := by
  intro t ht
  obtain rfl := Host.Outcome.next.inj ht
  refine ⟨_, rfl, ?_⟩
  obtain ⟨mode, word, cur, hidx, rfl⟩ := h
  by_cases hbusy : s.st = .busy
  · rw [State.writeCtrl_of_busy hbusy, State.writeCtrl_of_busy (s := s.overlay mode word cur hidx) hbusy]
    exact .refl ⟨_, _, _, _, rfl⟩
  · rw [State.writeCtrl_of_not_busy hbusy, State.writeCtrl_of_not_busy (s := s.overlay mode word cur hidx) hbusy]
    exact hact

/-- START_COMPRESS reads the MODE just stored, and leaves the other three fields. -/
theorem startCompress_follows (dir : BitVec 1) (mode' : BitVec 2) (h : s.Like u) {reads : Prop} :
    Follows reads s u (State.startCompress { s with ctrlDir := dir, ctrlMode := mode' })
      (State.startCompress { u with ctrlDir := dir, ctrlMode := mode' }) := by
  obtain ⟨mode, word, cur, hidx, rfl⟩ := h
  unfold State.startCompress
  dsimp only [State.overlay]
  split_ifs <;> exact ⟨⟨_, _, _, _, rfl⟩, fun _ => rfl, fun h _ => h, .inr ⟨rfl, rfl⟩, .inr ⟨rfl, rfl⟩⟩

theorem exec_inData_follows (d : Byte) {reads : Prop} (h : s.Like u) : StepFollows reads (exec (.inData d)) s u := by
  obtain ⟨mode, word, cur, hidx, rfl⟩ := h
  have hlike {v : State} : v.Like (v.overlay mode word cur hidx) := ⟨_, _, _, _, rfl⟩
  by_cases hready : s.inReady = true
  case neg =>
    have hnot : s.inReady = false := Bool.not_eq_true _ ▸ hready
    exact (oblivious_hold _).stepFollows (fun v hv => exec_inData_of_not_inReady hv d) hnot hnot hlike
  obtain hat | hat | ⟨hat, hnone⟩ | ⟨hat, hempty⟩ := State.inReady_iff.mp hready
  · exact (oblivious_encByte d).stepFollows (fun v hv => exec_inData_of_at_cBody hv d) hat hat hlike
  · exact oblivious_countIn.stepFollows (fun v hv => (tailBeatsAreDiscarded v hv).1 d) hat hat hlike
  · have hfeed : Oblivious (State.feedHeader d) := fun _ _ _ _ _ => rfl
    exact hfeed.stepFollows (p := fun v => v.At .dHdr ∧ v.hdrByte = none) (fun v hv => exec_inData_dHdr hv.1 hv.2 d)
      ⟨hat, hnone⟩ ⟨hat, hnone⟩ hlike
  · intro t ht
    obtain rfl := Host.Outcome.next.inj ((exec_inData_bits hat hempty d).symm.trans ht)
    exact ⟨_, exec_inData_bits (s := s.overlay mode word cur hidx) hat hempty d, ⟨_, _, _, _, rfl⟩, id, fun h _ => h,
      .inl rfl, .inr ⟨rfl, rfl⟩⟩

theorem exec_inEnd_follows (x : Byte) {reads : Prop} (h : s.Like u) : StepFollows reads (exec (.inEnd x)) s u := by
  obtain ⟨mode, word, cur, hidx, rfl⟩ := h
  have hlike {v : State} : v.Like (v.overlay mode word cur hidx) := ⟨_, _, _, _, rfl⟩
  by_cases hready : s.inReady = true
  case neg =>
    have hnot : s.inReady = false := Bool.not_eq_true _ ▸ hready
    exact (oblivious_hold _).stepFollows (fun v hv => exec_inEnd_of_not_inReady hv x) hnot hnot hlike
  obtain hat | hat | hwait := State.inReady_iff.mp hready
  · exact oblivious_encEnd.stepFollows (fun v hv => exec_inEnd_of_at_cBody hv x) hat hat hlike
  · have htail : Oblivious State.tailEnd := fun _ _ _ _ _ => rfl
    exact htail.stepFollows (fun v hv => (tailBeatsAreDiscarded v hv).2 x) hat hat hlike
  · exact (oblivious_raise .unexpectedEnd).stepFollows (fun v hv => endBeatInAWaitRaisesUnexpectedEnd x v hv) hwait
      hwait hlike

theorem exec_out_follows {reads : Prop} (h : s.Like u) : StepFollows reads (exec .out) s u := by
  obtain ⟨mode, word, cur, hidx, rfl⟩ := h
  cases hq : s.outq with
  | nil =>
    exact (oblivious_hold .take).stepFollows (p := fun v => v.outq = []) (fun v hv => ((outTakesTheHead v).2.2 hv).2) hq
      hq ⟨_, _, _, _, rfl⟩
  | cons b q =>
    have htake : Oblivious fun v : State => { v with outq := q, outCount := v.outCount + 1, taken := b } :=
      fun _ _ _ _ _ => rfl
    exact htake.stepFollows (p := fun v => v.outq = b :: q) (fun v hv => ((outTakesTheHead v).2.1 b q hv).2) hq hq
      ⟨_, _, _, _, rfl⟩

/-- A register read returns what the two states agree on, but for CTRL's MODE. -/
theorem readReg_follows {reads : Prop} {v v' : Word} (hsame : (reads → u.ctrlMode = s.ctrlMode) → v' = v)
    (h : s.Like u) : Follows reads s u (s.readReg v) (u.readReg v') := by
  obtain ⟨mode, word, cur, hidx, rfl⟩ := h
  exact ⟨⟨_, _, _, _, rfl⟩, id, fun _ => hsame, .inr ⟨rfl, rfl⟩, .inr ⟨rfl, rfl⟩⟩

/-- An operation of the host, where only a read of CTRL returns one of the four fields. -/
theorem exec_host_follows {op : HostOp} (hop : decodeHost op = some i) (h : s.Like u) :
    StepFollows (i = .rdCtrl) (exec i) s u := by
  obtain ⟨op', hcode⟩ := encode_of_decodeHost hop
  cases i
  case inData d => exact exec_inData_follows d h
  case inEnd x => exact exec_inEnd_follows x h
  case out => exact exec_out_follows h
  case wrStatus | wrInCount | wrOutCount | wrUnmapped =>
    exact Oblivious.id.stepFollows (p := fun _ => True) (fun _ _ => rfl) trivial trivial h
  case cfg dir mode' =>
    obtain ⟨mode, word, cur, hidx, rfl⟩ := h
    exact writeCtrl_follows ⟨_, _, _, _, rfl⟩
      ⟨⟨_, _, _, _, rfl⟩, fun _ => rfl, fun h _ => h, .inr ⟨rfl, rfl⟩, .inr ⟨rfl, rfl⟩⟩
  case startCRaw | startCRank | startCBad0 | startCBad3 => exact writeCtrl_follows h (startCompress_follows 0 _ h)
  case startD mode' =>
    obtain ⟨mode, word, cur, hidx, rfl⟩ := h
    exact writeCtrl_follows ⟨_, _, _, _, rfl⟩
      ⟨⟨_, _, _, _, rfl⟩, fun _ => rfl, fun h _ => h, .inr ⟨rfl, rfl⟩, .inl rfl⟩
  case rdCtrl =>
    intro t ht
    obtain rfl := Host.Outcome.next.inj ht
    refine ⟨_, rfl, readReg_follows (fun hmode => ?_) h⟩
    obtain ⟨mode, word, cur, hidx, rfl⟩ := h
    obtain rfl : mode = s.ctrlMode := hmode rfl
    rfl
  case rdStatus | rdInCount | rdOutCount | rdUnmapped =>
    intro t ht
    obtain rfl := Host.Outcome.next.inj ht
    refine ⟨_, rfl, readReg_follows (fun _ => ?_) h⟩
    obtain ⟨mode, word, cur, hidx, rfl⟩ := h
    rfl
  all_goals exact Code.noConfusion hcode

/-! ### A step -/

/-- Reset gives the four fields its own values, but for the last word read. -/
theorem applyReset_follows {reads : Prop} (h : s.Like u) : Follows reads s u s.applyReset u.applyReset := by
  obtain ⟨mode, word, cur, hidx, rfl⟩ := h
  exact ⟨⟨_, _, _, _, rfl⟩, fun _ => rfl, fun h _ => h, .inl rfl, .inl rfl⟩

/-- A step, where the two states agree on what of the four fields it reads. -/
theorem step_follows (h : s.Like u) (hcur : s.nleft = 0 ∨ u.cur = s.cur) (hhidx : s.At .dHdr → u.hidx = s.hidx) :
    StepFollows (hostMoves s (fun i => i = .rdCtrl)) step s u := by
  obtain ⟨mode, word, cur, hidx, rfl⟩ := h
  intro t ht
  have hturn : (s.overlay mode word cur hidx).useTurn =
      ({ s with turns := s.useTurn.turns } : State).overlay mode word cur hidx := by
    rw [oblivious_useTurn, ← State.useTurn_eq]
  generalize hturns : s.useTurn.turns = turns at hturn
  have hused : s.useTurn = { s with turns := turns } := hturns ▸ s.useTurn_eq
  have hlike {v : State} : v.Like (v.overlay mode word cur hidx) := ⟨_, _, _, _, rfl⟩
  cases hagent : s.nextAgent with
  | block =>
    have hagentu : (s.overlay mode word cur hidx).nextAgent = .block := hagent
    rw [step_of_nextAgent_block hagent, hused] at ht
    rw [step_of_nextAgent_block hagentu, hturn]
    obtain ⟨w, hw, hf⟩ := blockStep_follows (s := { s with turns := turns }) hlike hcur hhidx t ht
    exact ⟨w, hw, hf.like, hf.mode, fun h _ => hf.word h False.elim, hf.cur, hf.hidx⟩
  | host =>
    have hagentu : (s.overlay mode word cur hidx).nextAgent = .host := hagent
    rw [step_of_nextAgent_host hagent, hused] at ht
    rw [step_of_nextAgent_host hagentu, hturn]
    obtain ⟨op, rest, hhost⟩ := List.exists_cons_of_ne_nil (host_ne_nil_of_nextAgent hagent)
    cases hop : decodeHost op with
    | none =>
      obtain rfl := decodeHost_eq_none hop
      have hs := hostStep_rst (s := { s with turns := turns }) hhost
      have hu := hostStep_rst (s := ({ s with turns := turns } : State).overlay mode word cur hidx) hhost
      obtain rfl := Host.Outcome.next.inj (hs.symm.trans ht)
      have hf := applyReset_follows (reads := False) (s := { s with turns := turns, host := rest }) hlike
      exact ⟨_, hu, hf.like, hf.mode, fun h _ => hf.word h False.elim, hf.cur, hf.hidx⟩
    | some i =>
      have hs := hostStep_of_decode (s := { s with turns := turns }) hhost hop
      have hu := hostStep_of_decode (s := ({ s with turns := turns } : State).overlay mode word cur hidx) hhost hop
      obtain ⟨w, hw, hf⟩ := exec_host_follows hop (s := { s with turns := turns, host := rest }) hlike t
        (hs.symm.trans ht)
      refine ⟨w, hu.trans hw, hf.like, hf.mode, fun h hreads => hf.word h fun hi => hreads ?_, hf.cur, hf.hidx⟩
      exact (hostMoves_iff hagent hhost hop).mpr hi

/-! ### CTRL.MODE -/

/-- States that are the same but for CTRL.MODE and the last word read. -/
theorem blind_eq_iff : blind s = blind u ↔ s.Like u ∧ u.cur = s.cur ∧ u.hidx = s.hidx := by
  constructor
  · intro h
    refine ⟨⟨u.ctrlMode, u.csrRdata, u.cur, u.hidx, ?_⟩, (congrArg State.cur h :).symm, (congrArg State.hidx h :).symm⟩
    exact (congrArg (State.overlay u.ctrlMode u.csrRdata u.cur u.hidx) h.symm :)
  · rintro ⟨⟨mode, word, cur, hidx, rfl⟩, hcur, hhidx⟩
    obtain rfl : cur = s.cur := hcur
    obtain rfl : hidx = s.hidx := hhidx
    rfl

/-- Settles O55: such states take like steps, and `cur` and `hidx`, where they agree, they go on to agree. -/
theorem ctrlModeDoesNotReachTheStream : Obligations.CtrlModeDoesNotReachTheStream := by
  intro s u s' hblind hstep
  obtain ⟨hlike, hcur, hhidx⟩ := blind_eq_iff.mp hblind
  obtain ⟨u', hstep', hf⟩ := step_follows hlike (.inr hcur) (fun _ => hhidx) s' hstep
  have hcur' : u'.cur = s'.cur := hf.cur.elim id fun h => h.1.trans (hcur.trans h.2.symm)
  have hhidx' : u'.hidx = s'.hidx := hf.hidx.elim id fun h => h.1.trans (hhidx.trans h.2.symm)
  exact ⟨u', hstep', blind_eq_iff.mpr ⟨hf.like, hcur', hhidx'⟩,
    fun hword hnot => (hf.word hword.symm fun hreads => absurd hreads hnot).symm⟩

/-! ### The values reset leaves unspecified -/

/-- In a stream: like states that agree on CTRL's MODE and the last word read, on `cur` while it has unread bits and on
`hidx` while decompressing. -/
theorem unseen_eq_iff_of_busy (hbusy : s.st = .busy) (hbusy' : u.st = .busy) :
    unseen s = unseen u ↔ s.Like u ∧ u.ctrlMode = s.ctrlMode ∧ u.csrRdata = s.csrRdata ∧
      (s.nleft = 0 ∨ u.cur = s.cur) ∧ (s.adir = 0 ∨ u.hidx = s.hidx) := by
  rw [unseen, unseen, if_pos hbusy, if_pos hbusy']
  constructor
  · intro h
    refine ⟨⟨u.ctrlMode, u.csrRdata, u.cur, u.hidx, ?_⟩, (congrArg State.ctrlMode h :).symm,
      (congrArg State.csrRdata h :).symm, ?_, ?_⟩
    · exact (congrArg (State.overlay u.ctrlMode u.csrRdata u.cur u.hidx) h.symm :)
    · have hnleft : s.nleft = u.nleft := (congrArg State.nleft h :)
      have hcur : (if s.nleft = 0 then 0 else s.cur) = if u.nleft = 0 then 0 else u.cur := (congrArg State.cur h :)
      by_cases hz : s.nleft = 0
      · exact .inl hz
      · rw [if_neg hz, if_neg (hnleft ▸ hz)] at hcur
        exact .inr hcur.symm
    · have hadir : s.adir = u.adir := (congrArg State.adir h :)
      have hhidx : (if s.adir = 0 then 0 else s.hidx) = if u.adir = 0 then 0 else u.hidx := (congrArg State.hidx h :)
      by_cases hz : s.adir = 0
      · exact .inl hz
      · rw [if_neg hz, if_neg (hadir ▸ hz)] at hhidx
        exact .inr hhidx.symm
  · rintro ⟨⟨mode, word, cur, hidx, rfl⟩, hmode, hword, hcur, hhidx⟩
    obtain rfl : mode = s.ctrlMode := hmode
    obtain rfl : word = s.csrRdata := hword
    have hcur' : (if s.nleft = 0 then 0 else s.cur) = if s.nleft = 0 then 0 else cur := by
      split_ifs with hz
      · rfl
      · exact (hcur.resolve_left hz).symm
    have hhidx' : (if s.adir = 0 then 0 else s.hidx) = if s.adir = 0 then 0 else hidx := by
      split_ifs with hz
      · rfl
      · exact (hhidx.resolve_left hz).symm
    rw [hcur', hhidx']
    rfl

theorem unseen_eq_of_like_of_idle (hidle : s.st ≠ .busy) (h : s.Like u) (hmode : u.ctrlMode = s.ctrlMode)
    (hword : u.csrRdata = s.csrRdata) : unseen s = unseen u := by
  obtain ⟨mode, word, cur, hidx, rfl⟩ := h
  obtain rfl : mode = s.ctrlMode := hmode
  obtain rfl : word = s.csrRdata := hword
  exact (if_neg hidle).trans (if_neg (c := (s.overlay s.ctrlMode s.csrRdata cur hidx).st = .busy) hidle).symm

theorem BlockMove.nleft_eq_zero (hmove : BlockMove s t) (hempty : s.nleft = 0) : t.nleft = 0 := by
  cases hmove
  case noRun hbits _ | beginRun hbits _ | literal hbits _ | tokenFail hbits _ => exact absurd hempty hbits
  case endOfStream | tokenWait | pad => rfl
  all_goals exact hempty

/-- An operation of the host fills the bit reader only by its data beat. -/
theorem HostMove.nleft_cases (hmove : HostMove s i t) (hempty : s.nleft = 0) :
    t.nleft = 0 ∨ ∃ d, i = .inData d ∧ (s.At .dFlag ∨ s.At .dLit) ∧ t.cur = d := by
  cases hmove
  case feedBits d hi hat _ => exact .inr ⟨d, hi, hat, rfl⟩
  case startCompress | startDecompress => exact .inl rfl
  all_goals exact .inl hempty

/-- Where a step fills the bit reader, it does so with the same byte from a like state. -/
theorem cur_eq_of_filled (h : s.Like u) (hs : step s = .next t) (hu : step u = .next w) (hempty : s.nleft = 0)
    (hfilled : t.nleft ≠ 0) : w.cur = t.cur := by
  obtain ⟨turns, ⟨-, hmove⟩ | ⟨-, rest, rfl⟩ | ⟨hagent, op, rest, i, hhost, hop, hmove⟩⟩ := step_moves hs
  · exact absurd (hmove.nleft_eq_zero hempty) hfilled
  · exact absurd rfl hfilled
  · obtain ⟨d, rfl, hat, hcur⟩ := (hmove.nleft_cases hempty).resolve_left hfilled
    obtain ⟨mode, word, cur, hidx, rfl⟩ := h
    rw [step_of_nextAgent_host (s := s.overlay mode word cur hidx) hagent, State.useTurn_eq,
      hostStep_of_decode (s := { s.overlay mode word cur hidx with turns := _ }) hhost hop] at hu
    generalize (s.overlay mode word cur hidx).useTurn.turns = turns' at hu
    have hfed := exec_inData_bits (s := { s.overlay mode word cur hidx with turns := turns', host := rest }) hat
      hempty d
    obtain rfl := Host.Outcome.next.inj (hfed.symm.trans hu)
    exact hcur.symm

/-- In a stream, unseen values stay unseen. -/
theorem unseen_step_of_busy (hs : s.Inv) (hbusy : s.st = .busy) (hbusy' : u.st = .busy) (h : unseen s = unseen u)
    (hstep : step s = .next t) : ∃ w, step u = .next w ∧ unseen t = unseen w := by
  obtain ⟨hlike, hmode, hword, hcur, hhidx⟩ := (unseen_eq_iff_of_busy hbusy hbusy').mp h
  have hheader (hat : s.At .dHdr) : u.hidx = s.hidx := by
    have hdir := hs.place
    rw [hat.2] at hdir
    exact hhidx.resolve_left (by rw [hdir.1]; decide)
  obtain ⟨w, hw, hf⟩ := step_follows hlike hcur hheader t hstep
  have hst : w.st = t.st := by
    obtain ⟨mode, word, cur, hidx, rfl⟩ := hf.like
    rfl
  refine ⟨w, hw, ?_⟩
  have hmode' := hf.mode hmode
  have hword' := hf.word hword fun _ => hmode
  by_cases hbusyt : t.st = .busy
  case neg => exact unseen_eq_of_like_of_idle hbusyt hf.like hmode' hword'
  refine (unseen_eq_iff_of_busy hbusyt (hst.trans hbusyt)).mpr ⟨hf.like, hmode', hword', ?_, ?_⟩
  · obtain hcur' | ⟨hu, ht⟩ := hf.cur
    · exact .inr hcur'
    · obtain hempty | hsame := hcur
      · by_cases hempty' : t.nleft = 0
        · exact .inl hempty'
        · exact .inr (cur_eq_of_filled hlike hstep hw hempty hempty')
      · exact .inr (hu.trans (hsame.trans ht.symm))
  · obtain hhidx' | ⟨hu, ht⟩ := hf.hidx
    · exact .inr hhidx'
    · have hadir := (modeAndDirectionAreFixedForTheStream s t hstep hbusy hbusyt).1
      exact hhidx.imp hadir.trans fun hsame => hu.trans (hsame.trans ht.symm)

/-! #### Outside a stream -/

/-- s with the datapath at fixed values: what `unseen` leaves of it outside a stream. -/
def State.veil (s : State) : State :=
  { s with cb := [], ctx := 0, run := 0, rank := RankTable.initial, rem := 0, hidx := 0, acc := 0, nacc := 0
           cur := 0, nleft := 0 }

theorem unseen_of_idle (hidle : s.st ≠ .busy) : unseen s = s.veil := if_neg hidle

/-- Outside a stream the host's next operation is all that can happen. -/
theorem step_of_idle (hidle : s.st ≠ .busy) : step s = hostStep s := by
  have hnot : s.blockEnabled = false := by simp [State.blockEnabled, hidle]
  have hmid : s.midStep = false := by simp [State.midStep, hidle]
  have hfree : s.contested = false := by simp [State.contested, hnot]
  have hturn : s.useTurn = s := by rw [State.useTurn, hfree, if_neg Bool.false_ne_true]
  cases hhost : s.host with
  | nil => rw [step_of_no_host_of_not_enabled hhost hnot, hostStep, hhost]
  | cons op rest =>
    have hagent : s.nextAgent = .host := by simp [State.nextAgent, hfree, hmid, hhost]
    rw [step_of_nextAgent_host hagent, hturn]

/-- An operation of the host outside a stream does not read the datapath. -/
theorem exec_veil {op : HostOp} (hop : decodeHost op = some i) (hidle : s.st ≠ .busy) (h : exec i s = .next t) :
    ∃ w, exec i s.veil = .next w ∧ unseen t = unseen w := by
  have hidle' : s.veil.st ≠ .busy := hidle
  have hsame {v v' : State} (hv : v.st ≠ .busy) (hv' : v'.st ≠ .busy) (hveil : v.veil = v'.veil) :
      unseen v = unseen v' := (unseen_of_idle hv).trans (hveil.trans (unseen_of_idle hv').symm)
  obtain ⟨op', hcode⟩ := encode_of_decodeHost hop
  cases i
  case cfg dir mode =>
    obtain rfl := Host.Outcome.next.inj ((cfgStoresDirAndMode dir mode s hidle).symm.trans h)
    exact ⟨_, cfgStoresDirAndMode dir mode s.veil hidle', hsame hidle hidle rfl⟩
  case startCRaw =>
    obtain rfl := Host.Outcome.next.inj ((startCompressBeginsAStream s hidle).1.symm.trans h)
    exact ⟨_, (startCompressBeginsAStream s.veil hidle').1, rfl⟩
  case startCRank =>
    obtain rfl := Host.Outcome.next.inj ((startCompressBeginsAStream s hidle).2.symm.trans h)
    exact ⟨_, (startCompressBeginsAStream s.veil hidle').2, rfl⟩
  case startD mode =>
    obtain rfl := Host.Outcome.next.inj ((startDecompressBeginsAStream mode s hidle).symm.trans h)
    exact ⟨_, startDecompressBeginsAStream mode s.veil hidle', rfl⟩
  case startCBad0 =>
    have hbad (v : State) (hv : v.st ≠ .busy) := (startWithBadModeRaisesUsage v hv).1 .startCBad0 0 (.inl ⟨rfl, rfl⟩)
    obtain rfl := Host.Outcome.next.inj ((hbad s hidle).symm.trans h)
    exact ⟨_, hbad s.veil hidle', rfl⟩
  case startCBad3 =>
    have hbad (v : State) (hv : v.st ≠ .busy) := (startWithBadModeRaisesUsage v hv).1 .startCBad3 3 (.inr ⟨rfl, rfl⟩)
    obtain rfl := Host.Outcome.next.inj ((hbad s hidle).symm.trans h)
    exact ⟨_, hbad s.veil hidle', rfl⟩
  case inData d =>
    obtain rfl := Host.Outcome.next.inj (((beatIsHeldUntilAccepted s (.inl hidle)).1 d).symm.trans h)
    exact ⟨_, (beatIsHeldUntilAccepted s.veil (.inl hidle')).1 d, hsame hidle hidle rfl⟩
  case inEnd x =>
    obtain rfl := Host.Outcome.next.inj (((beatIsHeldUntilAccepted s (.inl hidle)).2 x).symm.trans h)
    exact ⟨_, (beatIsHeldUntilAccepted s.veil (.inl hidle')).2 x, hsame hidle hidle rfl⟩
  case out =>
    cases hq : s.outq with
    | nil =>
      obtain rfl := Host.Outcome.next.inj (((outTakesTheHead s).2.2 hq).2.symm.trans h)
      exact ⟨_, ((outTakesTheHead s.veil).2.2 hq).2, hsame hidle hidle rfl⟩
    | cons b q =>
      obtain rfl := Host.Outcome.next.inj (((outTakesTheHead s).2.1 b q hq).2.symm.trans h)
      exact ⟨_, ((outTakesTheHead s.veil).2.1 b q hq).2, hsame hidle hidle rfl⟩
  case rdCtrl | rdStatus | rdInCount | rdOutCount | rdUnmapped | wrStatus | wrInCount | wrOutCount | wrUnmapped =>
    obtain rfl := Host.Outcome.next.inj h
    exact ⟨_, rfl, hsame hidle hidle rfl⟩
  all_goals exact Code.noConfusion hcode

/-- Outside a stream, a step does not read the datapath. -/
theorem unseen_step_of_idle (hidle : s.st ≠ .busy) (hstep : step s = .next t) :
    ∃ w, step s.veil = .next w ∧ unseen t = unseen w := by
  have hidle' : s.veil.st ≠ .busy := hidle
  rw [step_of_idle hidle] at hstep
  rw [step_of_idle hidle']
  cases hhost : s.host with
  | nil =>
    have hs : hostStep s = .next s := by rw [hostStep, hhost]
    have hv : hostStep s.veil = .next s.veil := by rw [hostStep, show s.veil.host = [] from hhost]
    obtain rfl := Host.Outcome.next.inj (hs.symm.trans hstep)
    exact ⟨_, hv, (unseen_of_idle hidle).trans (unseen_of_idle (s := s.veil) hidle).symm⟩
  | cons op rest =>
    cases hop : decodeHost op with
    | none =>
      obtain rfl := decodeHost_eq_none hop
      obtain rfl := Host.Outcome.next.inj ((hostStep_rst hhost).symm.trans hstep)
      exact ⟨_, hostStep_rst (s := s.veil) hhost, rfl⟩
    | some i =>
      rw [hostStep_of_decode hhost hop] at hstep
      rw [hostStep_of_decode (s := s.veil) hhost hop]
      exact exec_veil (s := { s with host := rest }) hop hidle hstep

/-- Settles O56: in a stream by what a step reads of two like states, outside one by what it reads at all. -/
theorem unspecifiedValuesAreNotObservable : Obligations.UnspecifiedValuesAreNotObservable := by
  intro s u s' hs hu h hstep
  have hst : s.st = u.st := by
    have hkeeps (v : State) : (unseen v).st = v.st := by unfold unseen; split <;> rfl
    rw [← hkeeps s, h, hkeeps]
  by_cases hbusy : s.st = .busy
  · exact unseen_step_of_busy hs hbusy (hst ▸ hbusy) h hstep
  · have hidle' : u.st ≠ .busy := hst ▸ hbusy
    obtain ⟨u', hstep'⟩ := everyStepAnswersNext.2 u
    obtain ⟨v, hv, hsv⟩ := unseen_step_of_idle hbusy hstep
    obtain ⟨w, hw, huw⟩ := unseen_step_of_idle hidle' hstep'
    rw [unseen_of_idle hbusy, unseen_of_idle hidle'] at h
    rw [← h, hv] at hw
    obtain rfl := Host.Outcome.next.inj hw
    exact ⟨u', hstep', hsv.trans huw.symm⟩

end Sys2Proof.Machine
end

section
/-! PROOFS of 00_scope.md R9 and 45_host_interface.md R228: whole runs, and who moves in them where no turn is given
away. -/

namespace Sys2Proof.Machine

open Sys2Proof.Claims

variable {s t u : State}

/-- Some number of steps leads from s to t. -/
def Reaches (s t : State) : Prop := ∃ k, Host.Core.run core k s = .next t

theorem Reaches.refl (s : State) : Reaches s s := ⟨0, run_zero s⟩

theorem Reaches.head (h : step s = .next t) (hrest : Reaches t u) : Reaches s u :=
  hrest.imp' (· + 1) fun _ hrun => (run_succ h).trans hrun

theorem Reaches.trans (h : Reaches s t) (hrest : Reaches t u) : Reaches s u := by
  obtain ⟨k, hk⟩ := h
  induction k generalizing s with
  | zero =>
    obtain rfl : s = t := Host.Outcome.next.inj hk
    exact hrest
  | succ k ih =>
    obtain ⟨v, hv⟩ := everyStepAnswersNext.2 s
    exact .head hv (ih ((run_succ hv).symm.trans hk))

/-- Where the block has no step, the host's next operation is the one that happens. -/
theorem step_of_not_enabled {op : HostOp} {rest : List HostOp} {i : Instr} (henabled : s.blockEnabled = false)
    (hhost : s.host = op :: rest) (hop : decodeHost op = some i) : step s = exec i { s with host := rest } := by
  have hfree : s.contested = false := by simp [State.contested, henabled]
  have hmid : s.midStep = false :=
    Bool.eq_false_iff.mpr fun hmid => Bool.false_ne_true (henabled.symm.trans (State.blockEnabled_of_midStep hmid))
  have hturn : s.useTurn = s := by rw [State.useTurn, hfree, if_neg Bool.false_ne_true]
  have hagent : s.nextAgent = .host := by simp [State.nextAgent, hfree, hmid, hhost]
  rw [step_of_nextAgent_host hagent, hturn, hostStep_of_decode hhost hop]

/-- Where the block has a step and every choice is left to it, it moves. -/
theorem step_of_enabled (henabled : s.blockEnabled = true) (hturns : s.turns = []) : step s = blockStep s := by
  have hagent : s.nextAgent = .block := by
    by_cases hmid : s.midStep = true
    · exact State.nextAgent_of_midStep hmid
    · cases hhost : s.host <;> simp [State.nextAgent, State.contested, henabled, hmid, hhost, hturns]
  have hturn : s.useTurn = s := by
    rw [State.useTurn, hturns, List.tail_nil, ← hturns]
    exact ite_self _
  rw [step_of_nextAgent_block hagent, hturn]

end Sys2Proof.Machine
end

section
/-! PROOFS of 44_stream_controller.md R194: the bits of a compressed stream, as a function of the bytes and of the
tables both directions keep. -/

namespace Sys2Proof.Machine

open Sys2Proof.Claims

variable {s : State} {c : Byte} {cs : List Byte} {n : Nat}

/-- What both directions keep in step: the ContextBuffer, the context and the rank table, with the mode. -/
structure Tables where
  cb    : List Host.Cell
  ctx   : Ctx
  rank  : RankTable
  amode : AMode

def State.tables (s : State) : Tables := ⟨s.cb, s.ctx, s.rank, s.amode⟩

/-- The tables at START (R342). -/
def Tables.initial (m : AMode) : Tables := ⟨[], 0, RankTable.initial, m⟩

namespace Tables

variable {T : Tables}

def predict (T : Tables) : Byte := Memory.read T.cb T.ctx.toNat

/-- The tables after a byte: a match or a literal (R182). -/
def after (T : Tables) (c : Byte) : Tables :=
  if T.predict = c then
    { T with ctx := nextCtx T.ctx c, rank := if T.amode = .rank then T.rank.onMatchedByte c else T.rank }
  else
    { T with
      cb := Memory.write T.cb T.ctx.toNat c, ctx := nextCtx T.ctx c
      rank := if T.amode = .raw then T.rank else T.rank.onLiteralByte c }

/-- How many of the coming bytes are predicted before one is not. -/
def runAhead : Tables → List Byte → Nat
  | _, [] => 0
  | T, c :: cs => if T.predict = c then (T.after c).runAhead cs + 1 else 0

/-- The literal's code (42_literal_coder.md R140, R143). -/
def literalCode (T : Tables) (c : Byte) : List Bool :=
  if T.amode = .raw then byteBits c ++ (if c = 0xFF then [false] else []) else vlcBits (T.rank.rankOf c) Config.rankB

/-- The flag token of a run (41_run_coder.md R121). -/
def flagCode (run : Nat) : List Bool := if run = 0 then [false] else true :: vlcBits (run - 1) Config.runB

/-- The bits after the flag of the run ahead: each literal with the flag that follows it, and the end marker. -/
def bodyBits : Tables → List Byte → List Bool
  | T, [] => eosBits T.amode
  | T, c :: cs =>
    if T.predict = c then (T.after c).bodyBits cs
    else T.literalCode c ++ (flagCode ((T.after c).runAhead cs) ++ (T.after c).bodyBits cs)

/-- What is still to be written for these bytes while a run of r is pending. -/
def streamBits (r : Nat) (T : Tables) (cs : List Byte) : List Bool := flagCode (r + T.runAhead cs) ++ T.bodyBits cs

theorem runAhead_of_match (h : T.predict = c) (cs : List Byte) :
    T.runAhead (c :: cs) = (T.after c).runAhead cs + 1 := if_pos h

theorem runAhead_of_miss (h : T.predict ≠ c) (cs : List Byte) : T.runAhead (c :: cs) = 0 := if_neg h

theorem runAhead_le_length (T : Tables) (cs : List Byte) : T.runAhead cs ≤ cs.length := by
  induction cs generalizing T with
  | nil => exact le_rfl
  | cons c cs ih =>
    have := ih (T.after c)
    by_cases h : T.predict = c
    · rw [runAhead_of_match h, List.length_cons]
      omega
    · rw [runAhead_of_miss h]
      exact Nat.zero_le _

theorem bodyBits_of_match (h : T.predict = c) (cs : List Byte) :
    T.bodyBits (c :: cs) = (T.after c).bodyBits cs := if_pos h

theorem bodyBits_of_miss (h : T.predict ≠ c) (cs : List Byte) :
    T.bodyBits (c :: cs) = T.literalCode c ++ streamBits 0 (T.after c) cs := by
  rw [streamBits, Nat.zero_add]
  exact if_neg h

theorem streamBits_of_match (h : T.predict = c) (r : Nat) (cs : List Byte) :
    streamBits r T (c :: cs) = streamBits (r + 1) (T.after c) cs := by
  rw [streamBits, runAhead_of_match h, bodyBits_of_match h, streamBits, Nat.add_right_comm, Nat.add_assoc]

theorem streamBits_of_miss (h : T.predict ≠ c) (r : Nat) (cs : List Byte) :
    streamBits r T (c :: cs) = flagCode r ++ (T.literalCode c ++ streamBits 0 (T.after c) cs) := by
  rw [streamBits, runAhead_of_miss h, bodyBits_of_miss h, Nat.add_zero]

/-! ### Codes by their classes -/

theorem flagCode_eq {k run : Nat} (hk : run ≠ 0 → inClass k (run - 1) 0) : flagCode run = flagOfRun k run := by
  rw [flagCode, flagOfRun]
  split_ifs with hzero
  · rfl
  · exact congrArg (true :: ·) (vlcBits_eq_vlcCode (hk hzero))

theorem literalCode_eq {j : Nat} (hj : inClass j (T.rank.rankOf c) 3) :
    T.literalCode c = literalBits T.amode j (T.rank.rankOf c) c := by
  rw [literalCode, literalBits]
  split_ifs
  · rfl
  · rfl
  · exact vlcBits_eq_vlcCode hj

/-! ### No counter overflows -/

/-- No symbol has been counted more than n times. -/
def CountedBy (n : Nat) (T : Tables) : Prop := ∀ c, (T.rank.freqOf c).toNat ≤ n

theorem after_amode (T : Tables) (c : Byte) : (T.after c).amode = T.amode := by
  rw [after]
  split_ifs <;> rfl

/-- A byte leaves the rank table, or counts itself once. -/
theorem after_rank_cases (T : Tables) (c : Byte) :
    (T.after c).rank = T.rank ∨ (T.after c).rank = T.rank.onMatchedByte c ∨
      (T.after c).rank = T.rank.onLiteralByte c := by
  rw [after]
  split_ifs <;> simp

theorem CountedBy.after (h : T.CountedBy n) (hn : n < 2 ^ 32 - 1) (c : Byte) : (T.after c).CountedBy (n + 1) := by
  intro x
  have hroom : (T.rank.freqOf c).toNat ≠ 2 ^ 32 - 1 := ((h c).trans_lt hn).ne
  have hbump : ((T.rank.bump c).freqOf x).toNat ≤ n + 1 := by
    have hx := h x
    rw [RankTable.freqOf_bump_toNat hroom]
    split_ifs <;> omega
  obtain hrank | hrank | hrank := T.after_rank_cases c <;> rw [hrank]
  · exact (h x).trans n.le_succ
  · rwa [RankTable.freqOf_onMatchedByte]
  · rwa [RankTable.freqOf_onLiteralByte]

theorem perm_after (h : T.rank.Perm) (c : Byte) : (T.after c).rank.Perm := by
  obtain hrank | hrank | hrank := T.after_rank_cases c <;> rw [hrank]
  · exact h
  · exact h.onMatchedByte c
  · exact h.onLiteralByte c

theorem CountedBy.not_freqOverflows (h : s.tables.CountedBy n) (hn : n < 2 ^ 32 - 1) (c : Byte) :
    ¬s.freqOverflows c := fun hover => absurd hover.2 ((h c).trans_lt hn).ne

theorem initial_countedBy (m : AMode) : (Tables.initial m).CountedBy 0 := fun c => by
  simp [initial, RankTable.initial, RankTable.freqOf]

end Tables

end Sys2Proof.Machine
end

section
/-! PROOFS of 44_stream_controller.md R180 to R183, R194: what a whole compress stream writes. -/

namespace Sys2Proof.Machine

open Sys2Proof.Claims

variable {s : State} {c : Byte} {cs : List Byte} {n : Nat}

theorem State.blockEnabled_of_at_cBody (h : s.At .cBody) : s.blockEnabled = false := by
  simp [State.blockEnabled, h.2]

/-- One compressed byte: its tables, and its part of the stream. -/
theorem encByte_stream (hmatch : s.predict = c → s.run.toNat < 2 ^ 32 - 1) (hfreq : ¬s.freqOverflows c)
    (cs : List Byte) :
    (s.encByte c).tables = s.tables.after c ∧ (s.encByte c).st = s.st ∧ (s.encByte c).phase = s.phase ∧
      (s.encByte c).host = s.host ∧ (s.encByte c).run.toNat ≤ s.run.toNat + 1 ∧
      written (s.encByte c) ++ Tables.streamBits (s.encByte c).run.toNat (s.tables.after c) cs =
        written s ++ Tables.streamBits s.run.toNat s.tables (c :: cs) := by
  by_cases hpredict : s.predict = c
  · have hroom := hmatch hpredict
    have hrun : (s.run + 1).toNat = s.run.toNat + 1 := by
      rw [BitVec.toNat_add, Nat.mod_eq_of_lt]
      · rfl
      · change _ + 1 < 2 ^ 32
        omega
    rw [State.encByte_of_match hpredict hroom.ne hfreq, Tables.streamBits_of_match (T := s.tables) hpredict]
    refine ⟨?_, rfl, rfl, rfl, hrun.le, ?_⟩
    · exact (if_pos hpredict).symm
    · exact congrArg (fun r => written s ++ Tables.streamBits r _ _) hrun
  · obtain ⟨k, hk⟩ := exists_inClass (s.run.toNat - 1) 0
    obtain ⟨j, hj⟩ := exists_inClass (s.rank.rankOf c) 3
    obtain ⟨hwritten, hframe⟩ := encByte_miss_record hpredict hfreq (fun _ => hk) hj
    generalize s.encByte c = t at hwritten hframe
    have hrun : t.run = 0 := by rw [hframe]
    rw [hwritten, hrun, Tables.streamBits_of_miss (T := s.tables) hpredict, Tables.flagCode_eq fun _ => hk,
      Tables.literalCode_eq (T := s.tables) hj, List.append_assoc, List.append_assoc]
    exact ⟨(congrArg State.tables hframe).trans (if_neg hpredict).symm, (congrArg State.st hframe :),
      (congrArg State.phase hframe :), (congrArg State.host hframe :), Nat.zero_le _, rfl⟩

/-- From C_BODY, the bytes and END lead to C_FINISH, with their stream and the padding behind what was written. -/
theorem compress_reaches (hat : s.At .cBody) (hhost : s.host = send cs) (hrun : s.run.toNat ≤ n)
    (hcount : s.tables.CountedBy n) (hroom : n + cs.length < 2 ^ 32) :
    ∃ t p, Reaches s t ∧ t.At .cFinish ∧ t.nacc = 0 ∧ p < 8 ∧
      written t = written s ++ Tables.streamBits s.run.toNat s.tables cs ++ List.replicate p false := by
  induction cs generalizing s n with
  | nil =>
    obtain ⟨k, hk⟩ := exists_inClass (s.run.toNat - 1) 0
    obtain ⟨p, hp, hdone, hwritten, hframe⟩ := encEnd_record (s := { s with host := [] }) fun _ => hk
    have hstep : step s = .next ({ s with host := [] } : State).encEnd :=
      (step_of_not_enabled (State.blockEnabled_of_at_cBody hat) hhost (congrArg some (decodeBeat_end 0#8))).trans
        (exec_inEnd_of_at_cBody (s := { s with host := [] }) hat _)
    refine ⟨_, p, .head hstep (.refl _), ?_, hdone, hp, ?_⟩
    · rw [hframe]
      exact ⟨hat.1, rfl⟩
    · rw [hwritten, List.append_assoc (written _), ← Tables.flagCode_eq fun _ => hk]
      rfl
  | cons c cs ih =>
    rw [List.length_cons] at hroom
    have hstep : step s = .next (({ s with host := send cs } : State).encByte c) :=
      (step_of_not_enabled (State.blockEnabled_of_at_cBody hat) hhost (congrArg some (decodeBeat_data c))).trans
        (exec_inData_of_at_cBody (s := { s with host := send cs }) hat c)
    obtain ⟨htables, hst, hphase, hhost', hrun', hstream⟩ := encByte_stream (s := { s with host := send cs }) (c := c)
      (fun _ => hrun.trans_lt (by omega)) (hcount.not_freqOverflows (by omega) c) cs
    obtain ⟨t, p, hreach, hfinish, hdone, hp, hwritten⟩ := ih (n := n + 1)
      ⟨hst.trans hat.1, hphase.trans hat.2⟩ hhost' (hrun'.trans (Nat.succ_le_succ hrun))
      (htables ▸ hcount.after (by omega) c) (by omega)
    refine ⟨t, p, .head hstep hreach, hfinish, hdone, hp, ?_⟩
    rw [hwritten, htables, hstream]
    rfl

end Sys2Proof.Machine
end

section
/-! PROOFS of 48_bitio_vlc.md R254, R255 and 44_stream_controller.md R186: reading a token, or a header byte, across the
beats of the host. -/

namespace Sys2Proof.Machine

open Sys2Proof.Claims

variable {s t : State} {i : Instr}

/-! ### The bits at hand -/

theorem unreadBits_byte (b : Byte) : unreadBits Config.packOrder b 8 = byteBits b := rfl

theorem State.feedBits_unread (s : State) (d : Byte) : (s.feedBits d).unread = byteBits d := unreadBits_byte d

/-- The last of the unread bits are the ones unread when that many are left. -/
theorem drop_unreadBits (v : Byte) {m n : Nat} (h : m ≤ n) :
    (unreadBits Config.packOrder v n).drop (n - m) = unreadBits Config.packOrder v m := by
  induction n with
  | zero => rw [Nat.le_zero.mp h]; rfl
  | succ n ih =>
    obtain rfl | hlt := h.eq_or_lt
    · rw [Nat.sub_self, List.drop_zero]
    · rw [Nat.succ_sub (Nat.le_of_lt_succ hlt), unreadBits, List.drop_succ_cons, ih (Nat.le_of_lt_succ hlt)]

theorem State.unread_of_suffix {r z : List Bool} (h : s.unread = z ++ r) :
    ({ s with tok := [], nleft := Fin.ofNat 9 r.length } : State).unread = r := by
  have hlen := congrArg List.length h
  rw [State.unread_length, List.length_append] at hlen
  have hlt := s.nleft.isLt
  have hval : (Fin.ofNat 9 r.length).val = r.length := Nat.mod_eq_of_lt (by omega)
  have hdrop := drop_unreadBits s.cur (m := r.length) (n := s.nleft.val) (by omega)
  change unreadBits Config.packOrder s.cur (Fin.ofNat 9 r.length).val = r
  rw [hval, ← hdrop]
  change s.unread.drop _ = r
  rw [h, List.drop_left' (by omega)]

/-- A proper beginning of a token's code is no whole token. -/
theorem State.decodeToken_of_beginning {p z bits : List Bool} (hwf : i.wellFormed = true)
    (hcode : encode i = s.tokenCode bits) (hbits : bits = p ++ z) (hz : z ≠ []) : s.decodeToken p = .wait := by
  obtain hwait | ⟨j, code, rest, hjwf, hjcode, hp, -⟩ := s.decodeToken_cases p
  · exact hwait
  · have hi := State.decodeToken_encode hwf hcode []
    have hj := State.decodeToken_encode hjwf hjcode (rest ++ z)
    rw [List.append_nil, hbits, hp, List.append_assoc, hj] at hi
    obtain ⟨-, hnil⟩ := Get.got.inj hi
    exact absurd (List.append_eq_nil_iff.mp hnil).2 hz

/-! ### Reading a token -/

/-- The decoder stands at a bit, and these bits are all that is to come before END: the unread ones, and the host's
bytes. -/
def State.Offers (bits : List Bool) (s : State) : Prop :=
  s.turns = [] ∧ s.tok = [] ∧ ∃ data, s.host = send data ∧ s.unread ++ data.flatMap byteBits = bits

/-- The state with another place in its input. -/
def State.atInput (s : State) (cur : Byte) (nleft : Fin 9) (n : CntWord) (host : List HostOp) : State :=
  { s with tok := [], cur := cur, nleft := nleft, inCount := n, host := host }

theorem step_feedBits {d : Byte} {data : List Byte} (hat : s.At .dFlag ∨ s.At .dLit) (hempty : s.nleft = 0)
    (hhost : s.host = send (d :: data)) : step s = .next (({ s with host := send data } : State).feedBits d) := by
  have henabled : s.blockEnabled = false := by
    obtain ⟨-, hphase⟩ | ⟨-, hphase⟩ := hat <;> simp [State.blockEnabled, hphase, hempty]
  exact (step_of_not_enabled henabled hhost (congrArg some (decodeBeat_data d))).trans
    (exec_inData_bits (s := { s with host := send data }) hat hempty d)

/-- Of two ways to cut a list, one cuts no later, or properly earlier. -/
theorem append_eq_append_cases {α : Type} {a b c d : List α} (h : a ++ b = c ++ d) :
    (∃ r, a = c ++ r ∧ d = r ++ b) ∨ ∃ z, z ≠ [] ∧ c = a ++ z ∧ b = z ++ d := by
  obtain ⟨z, hc, hb⟩ | ⟨r, ha, hd⟩ := List.append_eq_append_iff.mp h
  · by_cases hz : z = []
    · subst hz
      exact .inl ⟨[], by rw [hc, List.append_nil, List.append_nil], hb.symm⟩
    · exact .inr ⟨z, hz, hc, hb⟩
  · exact .inl ⟨r, ha, hd⟩

/-- A token whose code ends at a bit at hand is run in one step. -/
theorem reaches_token_at_hand {data : List Byte} {bits r rest : List Bool} (hat : s.At .dFlag ∨ s.At .dLit)
    (hwf : i.wellFormed = true) (hcode : encode i = s.tokenCode bits) (hturns : s.turns = []) (hleft : s.nleft ≠ 0)
    (hhost : s.host = send data) (hpaused : s.tok.length < bits.length) (hread : s.tok ++ s.unread = bits ++ r)
    (hrest : rest = r ++ data.flatMap byteBits) :
    ∃ cur nleft n host, (s.atInput cur nleft n host).Offers rest ∧
      ∀ t, exec i (s.atInput cur nleft n host) = .next t → Reaches s t := by
  have hsuffix : ∃ z, s.unread = z ++ r := by
    obtain ⟨z, -, hunread⟩ | ⟨z, htok, -⟩ := List.append_eq_append_iff.mp hread
    · exact ⟨z, hunread⟩
    · rw [htok, List.length_append] at hpaused
      omega
  obtain ⟨z, hz⟩ := hsuffix
  have hstep := blockStep_of_token hat hleft (hread ▸ State.decodeToken_encode hwf hcode r)
  refine ⟨s.cur, Fin.ofNat 9 r.length, s.inCount, s.host, ⟨hturns, rfl, data, hhost, ?_⟩, fun t hexec => ?_⟩
  · rw [hrest]
    exact congrArg (· ++ _) (State.unread_of_suffix hz)
  · have hblock := step_of_enabled (State.blockEnabled_of_tokens hat hleft) hturns
    exact .head (hblock.trans (hstep.trans hexec)) (.refl t)

/-- With bits at hand, a token whose code began with the bits read before is read through to its last bit. -/
theorem reaches_token_of_unread {data : List Byte} {bits rest : List Bool} (hat : s.At .dFlag ∨ s.At .dLit)
    (hwf : i.wellFormed = true) (hcode : encode i = s.tokenCode bits) (hturns : s.turns = []) (hleft : s.nleft ≠ 0)
    (hhost : s.host = send data) (hpaused : s.tok.length < bits.length)
    (hinput : s.tok ++ s.unread ++ data.flatMap byteBits = bits ++ rest) :
    ∃ cur nleft n host, (s.atInput cur nleft n host).Offers rest ∧
      ∀ t, exec i (s.atInput cur nleft n host) = .next t → Reaches s t := by
  have hblock : step s = blockStep s := step_of_enabled (State.blockEnabled_of_tokens hat hleft) hturns
  induction data generalizing s with
  | nil =>
    obtain ⟨r, hread, hrest⟩ | ⟨z, hz, -, hnone⟩ := append_eq_append_cases hinput
    · exact reaches_token_at_hand hat hwf hcode hturns hleft hhost hpaused hread hrest
    · exact absurd (List.append_eq_nil_iff.mp hnone.symm).1 hz
  | cons d data ih =>
    obtain ⟨r, hread, hrest⟩ | ⟨z, hz, hbits, hmore⟩ := append_eq_append_cases hinput
    · exact reaches_token_at_hand hat hwf hcode hturns hleft hhost hpaused hread hrest
    · have hwait := State.decodeToken_of_beginning hwf hcode hbits hz
      have hshorter : (s.tok ++ s.unread).length < bits.length := by
        rw [hbits, List.length_append (bs := z)]
        exact Nat.lt_add_of_pos_right (List.length_pos_iff.mpr hz)
      have hinput' : s.tok ++ s.unread ++ byteBits d ++ data.flatMap byteBits = bits ++ rest := by
        rw [← hinput, List.flatMap_cons, List.append_assoc _ (byteBits d)]
      have hwaits := blockStep_of_wait hat hleft hwait
      have hfeed := step_feedBits (s := { s with tok := s.tok ++ s.unread, nleft := 0 }) hat rfl hhost
      obtain ⟨cur, nleft, n, host, hoffers, hreach⟩ := ih
        (s := State.feedBits d { s with tok := s.tok ++ s.unread, nleft := 0, host := send data })
        hat hcode hturns (show (8 : Fin 9) ≠ 0 by decide) rfl hshorter hinput'
        (step_of_midStep (State.midStep_feedBits hat d))
      exact ⟨cur, nleft, n, host, hoffers,
        fun t hexec => .head (hblock.trans hwaits) (.head hfeed (hreach t hexec))⟩

/-- A token at the bit reader's place is run, wherever its bits lie in the host's bytes. -/
theorem reaches_token {bits rest : List Bool} (hat : s.At .dFlag ∨ s.At .dLit) (hwf : i.wellFormed = true)
    (hcode : encode i = s.tokenCode bits) (hoffers : s.Offers (bits ++ rest)) :
    ∃ cur nleft n host, (s.atInput cur nleft n host).Offers rest ∧
      ∀ t, exec i (s.atInput cur nleft n host) = .next t → Reaches s t := by
  obtain ⟨hturns, htok, data, hhost, hinput⟩ := hoffers
  have hpos : 0 < bits.length := by
    refine List.length_pos_iff.mpr fun hnil => ?_
    have hread := State.decodeToken_encode hwf hcode []
    rw [hnil, List.append_nil, State.decodeToken_nil] at hread
    exact nomatch hread
  by_cases hleft : s.nleft = 0
  · have hnone : s.unread = [] := List.length_eq_zero_iff.mp (s.unread_length.trans (congrArg Fin.val hleft))
    rw [hnone, List.nil_append] at hinput
    cases data with
    | nil => exact absurd (List.append_eq_nil_iff.mp hinput.symm).1 (List.ne_nil_of_length_pos hpos)
    | cons d data =>
      obtain ⟨cur, nleft, n, host, hoffers, hreach⟩ :=
        reaches_token_of_unread (s := State.feedBits d { s with host := send data }) hat hwf hcode hturns
          (show (8 : Fin 9) ≠ 0 by decide) rfl (by rw [show _ = s.tok from rfl, htok]; exact hpos)
          (by rw [show _ = s.tok from rfl, htok, State.feedBits_unread, ← hinput]; rfl)
      exact ⟨cur, nleft, n, host, hoffers, fun t hexec => .head (step_feedBits hat hleft hhost) (hreach t hexec)⟩
  · exact reaches_token_of_unread hat hwf hcode hturns hleft hhost (by rw [htok]; exact hpos)
      (by rw [htok]; exact hinput)

end Sys2Proof.Machine
end

section
/-! PROOFS of 44_stream_controller.md R187 to R190, R194: what a whole decompress stream gives back. -/

namespace Sys2Proof.Machine

open Sys2Proof.Claims

variable {s t : State} {c : Byte} {cs : List Byte} {pad : List Bool} {n : Nat}

/-! ### The tables while a stream is read -/

/-- The tables can take this many more bytes: the list is a permutation, a mode is chosen and no counter comes to its
limit. -/
structure Tables.Ready (T : Tables) (more : Nat) : Prop where
  perm  : T.rank.Perm
  mode  : T.amode = .rank ∨ T.amode = .raw
  count : ∃ n, T.CountedBy n ∧ n + more < 2 ^ 32

theorem Tables.Ready.after {T : Tables} (h : T.Ready (n + 1)) (c : Byte) : (T.after c).Ready n := by
  obtain ⟨hperm, hmode, m, hcount, hroom⟩ := h
  exact ⟨T.perm_after hperm c, T.after_amode c ▸ hmode, m + 1, hcount.after (by omega) c, by omega⟩

theorem Tables.Ready.not_freqOverflows (h : s.tables.Ready (n + 1)) (c : Byte) : ¬s.freqOverflows c := by
  obtain ⟨-, -, m, hcount, hroom⟩ := h
  exact hcount.not_freqOverflows (by omega) c

theorem Tables.initial_ready {m : AMode} (hm : m ≠ .none) (hn : n < 2 ^ 32) : (Tables.initial m).Ready n := by
  refine ⟨RankTable.initial_perm, ?_, 0, Tables.initial_countedBy m, by omega⟩
  cases m with
  | none => exact absurd rfl hm
  | raw => exact .inr rfl
  | rank => exact .inl rfl

/-- The decoder has read the flag of the run ahead of these bytes: the run is to be replayed, or there is none. -/
def State.Ahead (cs : List Byte) (pad : List Bool) (s : State) : Prop :=
  s.Offers (s.tables.bodyBits cs ++ pad) ∧
    ((s.At .dLit ∧ s.tables.runAhead cs = 0) ∨
      (s.At .dReplay ∧ s.rem.toNat = s.tables.runAhead cs ∧ s.tables.runAhead cs ≠ 0))

/-! ### The flag -/

theorem runOf_f1OfClass {k v : Nat} (hk : k < 32) (hv : v < 2 ^ k) : runOf (f1OfClass k v) = some (2 ^ k + v) := by
  interval_cases k
  · obtain rfl : v = 0 := Nat.lt_one_iff.mp hv
    rfl
  all_goals exact congrArg (fun w => some (2 ^ _ + w)) (Nat.mod_eq_of_lt hv)

/-- Every run has its flag token. -/
theorem exists_run_token {L : Nat} (hpos : L ≠ 0) (hL : L < 2 ^ 32) :
    ∃ i : Instr, i.wellFormed = true ∧ encode i = .flag (Tables.flagCode L) ∧ runOf i = some L := by
  obtain ⟨k, hk⟩ := exists_inClass (L - 1) 0
  have hlimit : k < 32 :=
    Nat.lt_succ_of_le (by simpa using (underLimit_runLen (by decide)).mp (underLimit_of_run hk (by omega)))
  obtain ⟨v, hv⟩ := Nat.exists_eq_add_of_le (inClass_iff.mp hk).1
  have hsuffix : v < 2 ^ k := by
    rw [hv, inClass_add, Nat.zero_add] at hk
    exact hk
  have hlength : L = 2 ^ k + v := by
    have := vlcBase_width_zero k
    omega
  refine ⟨f1OfClass k v, f1OfClass_wellFormed k v, ?_, hlength ▸ runOf_f1OfClass hlimit hsuffix⟩
  rw [encode_f1OfClass hlimit, f1Bits, Tables.flagCode, if_neg hpos, vlcBits_eq_vlcCode hk, vlcCode_eq, hv,
    Nat.add_sub_cancel_left, Nat.zero_add, List.replicate_succ, List.cons_append]

/-- The flag of the run ahead is read. -/
theorem reaches_ahead (hat : s.At .dFlag) (hroom : cs.length < 2 ^ 32)
    (hoffers : s.Offers (Tables.streamBits 0 s.tables cs ++ pad)) :
    ∃ t, Reaches s t ∧ t.Ahead cs pad ∧ t.tables = s.tables ∧ t.outq = s.outq ∧ t.outCount = s.outCount := by
  rw [Tables.streamBits, Nat.zero_add, List.append_assoc] at hoffers
  have htoken (bits : List Bool) : s.tokenCode bits = .flag bits := if_pos hat.2
  by_cases hnone : s.tables.runAhead cs = 0
  · rw [hnone] at hoffers
    obtain ⟨cur, nleft, m, host, hrest, hreach⟩ := reaches_token (i := .f0) (.inl hat) rfl (htoken _).symm hoffers
    have hexec : exec .f0 (s.atInput cur nleft m host) = .next (s.atInput cur nleft m host).noRun := by
      rw [exec_f0, State.atPhase_of_at]
      exact hat
    exact ⟨_, hreach _ hexec, ⟨hrest, .inl ⟨⟨hat.1, rfl⟩, hnone⟩⟩, rfl, rfl, rfl⟩
  · have hL : s.tables.runAhead cs < 2 ^ 32 := (s.tables.runAhead_le_length cs).trans_lt hroom
    obtain ⟨i, hwf, hcode, hrun⟩ := exists_run_token hnone hL
    obtain ⟨cur, nleft, m, host, hrest, hreach⟩ := reaches_token (.inl hat) hwf (hcode.trans (htoken _).symm) hoffers
    have hexec : exec i (s.atInput cur nleft m host) =
        .next ((s.atInput cur nleft m host).beginRun (s.tables.runAhead cs)) := by
      rw [exec_of_runOf hrun, State.atPhase_of_at]
      exact hat
    refine ⟨_, hreach _ hexec, ⟨hrest, .inr ⟨⟨hat.1, rfl⟩, ?_, hnone⟩⟩, rfl, rfl, rfl⟩
    exact Nat.mod_eq_of_lt hL

/-! ### One byte -/

theorem toNat_sub_one {r : BitVec 32} {k : Nat} (h : r.toNat = k + 1) : (r - 1).toNat = k ∧ (r = 1 ↔ k = 0) := by
  constructor <;> bv_omega

/-- A run byte is replayed: the tables are those after the byte predicted. -/
theorem reaches_replayed (hready : s.tables.Ready (cs.length + 1)) (hat : s.At .dReplay) (hturns : s.turns = [])
    (hmatch : s.tables.predict = c) (hrem : s.rem.toNat = (s.tables.after c).runAhead cs + 1)
    (hoffers : s.Offers ((s.tables.after c).bodyBits cs ++ pad)) :
    ∃ t, Reaches s t ∧ t.Ahead cs pad ∧ t.tables = s.tables.after c ∧ t.outq = s.outq ++ [c] ∧
      t.outCount = s.outCount := by
  subst hmatch
  have henabled : s.blockEnabled = true := by simp [State.blockEnabled, hat.1, hat.2]
  have hstep : step s = .next s.replayByte := (step_of_enabled henabled hturns).trans (blockStep_dReplay hat)
  have hbyte := State.replayByte_eq (hready.not_freqOverflows s.predict)
  have htables : s.replayByte.tables = s.tables.after s.tables.predict := by
    rw [hbyte]
    exact (if_pos rfl).symm
  obtain ⟨hrest, hlast⟩ := toNat_sub_one hrem
  refine ⟨_, .head hstep (.refl _), ⟨?_, ?_⟩, htables, by rw [hbyte]; rfl, by rw [hbyte]⟩
  · rw [htables, hbyte]
    exact hoffers
  · rw [htables, hbyte]
    by_cases hend : (s.tables.after s.tables.predict).runAhead cs = 0
    · exact .inl ⟨⟨hat.1, if_pos (hlast.mpr hend)⟩, hend⟩
    · exact .inr ⟨⟨hat.1, (if_neg (mt hlast.mp hend)).trans hat.2⟩, hrest, hend⟩

/-- A literal is read, and the flag after it. -/
theorem reaches_literal (hready : s.tables.Ready (cs.length + 1)) (hat : s.At .dLit) (hmiss : s.tables.predict ≠ c)
    (hoffers : s.Offers (s.tables.literalCode c ++ (Tables.streamBits 0 (s.tables.after c) cs ++ pad))) :
    ∃ t, Reaches s t ∧ t.Ahead cs pad ∧ t.tables = s.tables.after c ∧ t.outq = s.outq ++ [c] ∧
      t.outCount = s.outCount := by
  have hfreq := hready.not_freqOverflows c
  have hroom : cs.length < 2 ^ 32 := by
    obtain ⟨m, -, hm⟩ := hready.count
    omega
  obtain ⟨j, hj⟩ := exists_inClass (s.rank.rankOf c) 3
  obtain ⟨i, hwf, hcode, hi⟩ := exists_literal_token hat.2 hready.perm hj
  rw [Tables.literalCode_eq (T := s.tables) hj] at hoffers
  obtain ⟨cur, nleft, k, host, hrest, hreach⟩ := reaches_token (.inr hat) hwf hcode hoffers
  have hexec := exec_literal_token (s := s.atInput cur nleft k host) hat hready.perm hfreq hready.mode hi
  obtain ⟨v, hv⟩ : ∃ v, v = afterLiteral c
      { s.atInput cur nleft k host with rank := (s.atInput cur nleft k host).rankAfterLiteral c } := ⟨_, rfl⟩
  have htables : v.tables = s.tables.after c := by
    rw [hv]
    exact (if_neg hmiss).symm
  rw [← hv] at hexec
  have hflag : v.Offers (Tables.streamBits 0 v.tables cs ++ pad) := by
    rw [htables, hv]
    exact hrest
  obtain ⟨t, hrun, hahead, htables', houtq, hcount⟩ := reaches_ahead (hv ▸ ⟨hat.1, rfl⟩) hroom hflag
  exact ⟨t, (hreach v hexec).trans hrun, hahead, htables'.trans htables, houtq.trans (hv ▸ rfl),
    hcount.trans (hv ▸ rfl)⟩

/-- The next byte is given back: a replayed byte, or a literal and the flag after it. -/
theorem reaches_next_byte (hready : s.tables.Ready (cs.length + 1)) (hahead : s.Ahead (c :: cs) pad) :
    ∃ t, Reaches s t ∧ t.Ahead cs pad ∧ t.tables = s.tables.after c ∧ t.outq = s.outq ++ [c] ∧
      t.outCount = s.outCount := by
  obtain ⟨hoffers, hplace⟩ := hahead
  by_cases hmatch : s.tables.predict = c
  · rw [Tables.runAhead_of_match hmatch] at hplace
    rw [Tables.bodyBits_of_match hmatch] at hoffers
    obtain ⟨-, hzero⟩ | ⟨hat, hrem, -⟩ := hplace
    · exact absurd hzero (Nat.succ_ne_zero _)
    · exact reaches_replayed hready hat hoffers.1 hmatch hrem hoffers
  · rw [Tables.runAhead_of_miss hmatch] at hplace
    rw [Tables.bodyBits_of_miss hmatch, List.append_assoc] at hoffers
    obtain ⟨hat, -⟩ | ⟨-, -, hne⟩ := hplace
    · exact reaches_literal hready hat hmatch hoffers
    · exact absurd rfl hne

/-! ### The end of the stream -/

/-- The end marker is read, and the padding goes with it. -/
theorem reaches_tail (hat : s.At .dLit) (hmode : s.amode = .rank ∨ s.amode = .raw)
    (hoffers : s.Offers (eosBits s.amode ++ pad)) :
    ∃ t, Reaches s t ∧ t.At .dTail ∧ t.nleft = 0 ∧ t.outq = s.outq ∧ t.outCount = s.outCount ∧
      ∃ data, t.host = send data ∧ 8 * data.length ≤ pad.length := by
  have hmarker : ∃ i : Instr, i.wellFormed = true ∧ encode i = s.tokenCode (eosBits s.amode) ∧
      ∀ u : State, u.At .dLit → u.amode = s.amode → exec i u = .next u.endOfStream := by
    rw [State.tokenCode, if_neg (by rw [hat.2]; decide)]
    obtain hrank | hraw := hmode
    · rw [hrank]
      exact ⟨.eosRank, rfl, rfl, fun u hu hmode => by
        rw [exec_eosRank, State.atRankLit_of_at hu (by rw [hmode]; decide)]⟩
    · rw [hraw]
      exact ⟨.eosRaw, rfl, rfl, fun u hu hmode => by rw [exec_eosRaw, State.atRawLit_of_at hu hmode]⟩
  obtain ⟨i, hwf, hcode, hexec⟩ := hmarker
  obtain ⟨cur, nleft, m, host, ⟨-, -, data, hhost, hpad⟩, hreach⟩ := reaches_token (.inr hat) hwf hcode hoffers
  refine ⟨_, hreach _ (hexec _ hat rfl), ⟨hat.1, rfl⟩, rfl, rfl, rfl, data, hhost, ?_⟩
  rw [← hpad, List.length_append, flatMap_byteBits_length]
  exact Nat.le_add_left _ _

/-- END ends the stream (R190). -/
theorem step_tailEnd (hat : s.At .dTail) (hempty : s.nleft = 0) (hhost : s.host = send []) :
    step s = .next { s with host := [], phase := .dFinish } := by
  have henabled : s.blockEnabled = false := by simp [State.blockEnabled, hat.2, hempty]
  exact (step_of_not_enabled henabled hhost (congrArg some (decodeBeat_end 0#8))).trans
    ((tailBeatsAreDiscarded { s with host := [] } hat).2 0#8)

/-- Behind the flag of the run ahead, the rest of the stream gives back the bytes and leads to D_FINISH. -/
theorem decompress_reaches (hready : s.tables.Ready cs.length) (hahead : s.Ahead cs pad) (hpad : pad.length < 8) :
    ∃ t, Reaches s t ∧ t.At .dFinish ∧ t.host = [] ∧ t.outq = s.outq ++ cs ∧ t.outCount = s.outCount := by
  induction cs generalizing s with
  | nil =>
    obtain ⟨hoffers, ⟨hat, -⟩ | ⟨-, -, hne⟩⟩ := hahead
    · obtain ⟨t, hreach, htail, hempty, houtq, hcount, data, hhost, hlen⟩ := reaches_tail hat hready.mode hoffers
      obtain rfl : data = [] := List.length_eq_zero_iff.mp (by omega)
      exact ⟨_, hreach.trans (.head (step_tailEnd htail hempty hhost) (.refl _)), ⟨htail.1, rfl⟩, rfl,
        houtq.trans s.outq.append_nil.symm, hcount⟩
    · exact absurd rfl hne
  | cons c cs ih =>
    obtain ⟨t, hreach, hahead', htables, houtq, hcount⟩ := reaches_next_byte hready hahead
    obtain ⟨u, hreach', hfinish, hhost, houtq', hcount'⟩ := ih (htables ▸ hready.after c) hahead'
    refine ⟨u, hreach.trans hreach', hfinish, hhost, ?_, hcount'.trans hcount⟩
    rw [houtq', houtq, List.append_assoc, List.singleton_append]

/-- Once the host has taken every byte, the stream is DONE. -/
theorem take_reaches (hat : s.At .dFinish) (hhost : s.host = List.replicate s.outq.length .take) :
    ∃ t, Reaches s t ∧ t.st = .done ∧ t.outq = [] ∧ t.outCount = s.outCount + BitVec.ofNat _ s.outq.length := by
  induction hq : s.outq generalizing s with
  | nil =>
    rw [hq] at hhost
    have hagent : s.nextAgent = .block := by simp [State.nextAgent, State.contested, hhost]
    have hstep := (completeWaitsForTheQueue s (.inr hat)).1 hq hagent
    rw [State.useTurn_eq] at hstep
    exact ⟨_, .head hstep (.refl _), rfl, hq, (BitVec.add_zero _).symm⟩
  | cons b q ih =>
    rw [hq, List.length_cons, List.replicate_succ] at hhost
    have henabled : s.blockEnabled = false := State.not_enabled_of_finish (.inr hat) (by rw [hq]; exact nofun)
    have hstep : step s =
        .next { s with host := List.replicate q.length .take, outq := q, outCount := s.outCount + 1, taken := b } :=
      (step_of_not_enabled henabled hhost rfl).trans
        ((outTakesTheHead { s with host := List.replicate q.length .take }).2.1 b q hq).2
    obtain ⟨t, hreach, hdone, hempty, hcount⟩ := ih
      (s := { s with host := List.replicate q.length .take, outq := q, outCount := s.outCount + 1, taken := b })
      hat rfl rfl
    refine ⟨t, .head hstep hreach, hdone, hempty, ?_⟩
    rw [hcount, List.length_cons, Nat.add_comm, BitVec.ofNat_add, ← BitVec.add_assoc]
    rfl

end Sys2Proof.Machine
end

section
/-! PROOFS of 44_stream_controller.md R180 to R186, R194: the STARTs and the header, and both directions in a row. -/

namespace Sys2Proof.Machine

open Sys2Proof.Claims

variable {s t : State} {m : AMode} {bytes : List Byte}

/-! ### The STARTs -/

theorem step_of_idle_start {op : HostOp} {i : Instr} (hidle : s.st ≠ .busy) (hop : decodeHost op = some i) :
    step (fed op bytes s) = exec i { s with host := send bytes, turns := [] } :=
  (step_of_idle (s := fed op bytes s) hidle).trans (hostStep_of_decode rfl hop)

theorem step_startC (hidle : s.st ≠ .busy) (hm : m ≠ .none) :
    step (fed (startC m) bytes s) = .next (compressing m.code m { s with host := send bytes, turns := [] }) := by
  obtain ⟨hraw, hrank⟩ := startCompressBeginsAStream { s with host := send bytes, turns := [] } hidle
  cases m with
  | none => exact absurd rfl hm
  | raw => exact (step_of_idle_start hidle rfl).trans hraw
  | rank => exact (step_of_idle_start hidle rfl).trans hrank

theorem decodeHost_startD (mode : BitVec 2) : decodeHost (startD mode) = some (.startD mode) :=
  decodeHost_of_decode
    ((decode_write_ctrl (by decide) _).trans (congrArg Except.ok (decodeCtrl_ctrlWord_startD mode)))

theorem step_startD (hidle : s.st ≠ .busy) (mode : BitVec 2) :
    step (fed (startD mode) bytes s) = .next (decompressing mode { s with host := send bytes, turns := [] }) :=
  (step_of_idle_start hidle (decodeHost_startD mode)).trans
    (startDecompressBeginsAStream mode { s with host := send bytes, turns := [] } hidle)

/-! ### The header -/

/-- A header byte is accepted and checked. -/
theorem reaches_header_byte {d : Byte} {rest : List HostOp} (hat : s.At .dHdr) (hnone : s.hdrByte = none)
    (hhost : s.host = .beat (0#1 ++ d) :: rest)
    (hexec : exec (decodeHeader s.hidx d) { s with inCount := s.inCount + 1, hdrByte := none, host := rest } =
      .next t) : Reaches s t := by
  have henabled : s.blockEnabled = false := by simp [State.blockEnabled, hat.2, hnone]
  have hfeed : step s = .next (({ s with host := rest } : State).feedHeader d) :=
    (step_of_not_enabled henabled hhost (congrArg some (decodeBeat_data d))).trans
      (exec_inData_dHdr (s := { s with host := rest }) hat hnone d)
  have hcheck := stepRunsTheHeaderByte (({ s with host := rest } : State).feedHeader d) d hat rfl
  exact .head hfeed (.head (hcheck.trans hexec) (.refl t))

/-- The state at header byte number hidx, n bytes being counted. -/
def State.atHeader (s : State) (hidx : BitVec 2) (n : CntWord) (host : List HostOp) : State :=
  { s with hidx := hidx, inCount := n, hdrByte := none, host := host }

theorem reaches_magic {hidx : BitVec 2} {k : Fin 3} {n : CntWord} {rest : List HostOp} (hat : s.At .dHdr)
    (hk : hidx.toNat = k.val) :
    Reaches (s.atHeader hidx n (.beat (0#1 ++ Config.magic k) :: rest)) (s.atHeader (hidx + 1) (n + 1) rest) := by
  have hdecode : decodeHeader hidx (Config.magic k) = .hdrMagic (Config.magic k) := if_pos (hk.trans_lt k.isLt)
  have hcheck := State.headerMagic_eq (s := s.atHeader hidx (n + 1) rest) hk (Config.magic k)
  rw [if_neg (not_not_intro rfl)] at hcheck
  refine reaches_header_byte hat rfl rfl (.trans (congrArg (exec · _) hdecode) ?_)
  exact (exec_hdrMagic_of_at (s := s.atHeader hidx (n + 1) rest) hat _).trans (congrArg _ hcheck)

theorem reaches_mode {n : CntWord} {rest : List HostOp} (hat : s.At .dHdr) (hm : m ≠ .none) :
    Reaches (s.atHeader 3 n (.beat (0#1 ++ m.byte) :: rest))
      { s.atHeader 3 (n + 1) rest with amode := m, phase := .dFlag } := by
  have hcheck := State.headerMode_of_hidx_eq_three (s := s.atHeader 3 (n + 1) rest) rfl m
  refine reaches_header_byte hat rfl rfl (.trans ?_ (congrArg _ hcheck))
  cases m with
  | none => exact absurd rfl hm
  | raw => exact exec_hdrModeRaw_of_at (s := s.atHeader 3 (n + 1) rest) hat
  | rank => exact exec_hdrModeRank_of_at (s := s.atHeader 3 (n + 1) rest) hat

/-- The four bytes of a header set the mode. -/
theorem reaches_flag (hat : s.At .dHdr) (hm : m ≠ .none) (n : CntWord) :
    Reaches (s.atHeader 0 n (send (header m.byte ++ bytes)))
      { s.atHeader 3 (n + 1 + 1 + 1 + 1) (send bytes) with amode := m, phase := .dFlag } :=
  (reaches_magic (hidx := 0) (k := 0) hat rfl).trans <| (reaches_magic (hidx := 1) (k := 1) hat rfl).trans <|
    (reaches_magic (hidx := 2) (k := 2) hat rfl).trans (reaches_mode hat hm)

/-! ### Both directions -/

/-- Bytes whose bits begin with those of some bytes begin with them. -/
theorem exists_append_of_flatMap_byteBits {p q : List Byte} {bits : List Bool}
    (h : p.flatMap byteBits = q.flatMap byteBits ++ bits) : ∃ r, p = q ++ r ∧ r.flatMap byteBits = bits := by
  have hlen : q.length ≤ p.length := by
    have hbits := congrArg List.length h
    rw [List.length_append, flatMap_byteBits_length, flatMap_byteBits_length] at hbits
    omega
  rw [← List.take_append_drop q.length p, List.flatMap_append] at h
  obtain ⟨hhead, hrest⟩ := List.append_inj h (by simp [hlen])
  refine ⟨p.drop q.length, ?_, hrest⟩
  conv_lhs => rw [← List.take_append_drop q.length p, flatMap_byteBits_injective hhead]

/-- What the compress direction leaves in its queue: the header, and bytes that hold the stream and less than eight bits
of padding. -/
theorem compress_stream (hlen : bytes.length < 2 ^ 32) (hm : m ≠ .none) (hidle : s.st ≠ .busy) :
    ∃ t q p, Reaches (fed (startC m) bytes s) t ∧ t.At .cFinish ∧ t.outq = header m.byte ++ q ∧ p < 8 ∧
      q.flatMap byteBits = Tables.streamBits 0 (Tables.initial m) bytes ++ List.replicate p false := by
  obtain ⟨t, p, hreach, hfinish, hdone, hp, hwritten⟩ := compress_reaches (cs := bytes) (n := 0)
    (s := compressing m.code m { s with host := send bytes, turns := [] }) ⟨rfl, rfl⟩ rfl le_rfl
    (Tables.initial_countedBy m) (by omega)
  rw [written_of_nacc_eq_zero hdone, written_of_nacc_eq_zero rfl, List.append_assoc] at hwritten
  obtain ⟨q, hq, hbits⟩ := exists_append_of_flatMap_byteBits hwritten
  exact ⟨t, q, p, .head (step_startC hidle hm) hreach, hfinish, hq, hp, hbits⟩

/-- A header and a stream give the bytes back. -/
theorem decompress_stream {q : List Byte} {pad : List Bool} (hlen : bytes.length < 2 ^ 32) (hm : m ≠ .none)
    (hidle : s.st ≠ .busy) (hpad : pad.length < 8) (mode : BitVec 2)
    (hbits : q.flatMap byteBits = Tables.streamBits 0 (Tables.initial m) bytes ++ pad) :
    ∃ t, Reaches (fed (startD mode) (header m.byte ++ q) s) t ∧ t.At .dFinish ∧ t.outq = bytes ∧ t.host = [] ∧
      t.outCount = 0 := by
  obtain ⟨d, hd⟩ : ∃ d, d = decompressing mode { s with host := [], turns := [] } := ⟨_, rfl⟩
  have hheader := reaches_flag (s := d) (bytes := q) (hd ▸ ⟨rfl, rfl⟩) hm 0
  generalize hu : ({ d.atHeader 3 (0 + 1 + 1 + 1 + 1) (send q) with amode := m, phase := .dFlag } : State) = u at hheader
  subst hd
  have htables : u.tables = Tables.initial m := hu ▸ rfl
  obtain ⟨v, hflag, hahead, hvtables, hvoutq, hvcount⟩ := reaches_ahead (s := u) (hu ▸ ⟨rfl, rfl⟩) hlen
    (by rw [htables, ← hbits, ← hu]; exact ⟨rfl, rfl, q, rfl, rfl⟩)
  have hready : v.tables.Ready bytes.length := by
    rw [hvtables, htables]
    exact Tables.initial_ready hm hlen
  obtain ⟨t, hreach, hfinish, hhost, houtq, hcount⟩ := decompress_reaches hready hahead hpad
  refine ⟨t, .head (step_startD hidle mode) (hheader.trans (hflag.trans hreach)), hfinish, ?_, hhost, ?_⟩
  · rw [houtq, hvoutq, ← hu]
    rfl
  · rw [hcount, hvcount, ← hu]
    rfl

/-- Settles O60: the compress direction writes `streamBits` of the bytes, and the decompress direction reads it byte by
byte on the same tables. -/
theorem roundTrip : Obligations.RoundTrip := by
  intro bytes m mode s u hlen hm hs hu
  obtain ⟨t, q, p, ⟨j, hj⟩, ⟨htbusy, htphase⟩, htqueue, hp, hbits⟩ := compress_stream hlen hm hs
  obtain ⟨v, ⟨k, hk⟩, hfinish, hvqueue, hvhost, hvcount⟩ := decompress_stream hlen hm hu (pad := List.replicate p false)
    (by rwa [List.length_replicate]) mode hbits
  obtain ⟨w, ⟨l, hl⟩, hdone, hwqueue, hwcount⟩ := take_reaches
    (s := { v with host := List.replicate bytes.length .take }) hfinish (by rw [← hvqueue])
  refine ⟨j, t, k, v, l, w, hj, htphase, htbusy, ?_, hfinish.2, hfinish.1, hvqueue, hvhost, hl, hdone, hwqueue, ?_⟩
  · rw [htqueue]
    exact hk
  · have hcount : w.outCount = BitVec.ofNat 32 bytes.length := by
      exact hwcount.trans (by rw [hvqueue, hvcount]; exact zero_add _)
    rw [hcount, BitVec.toNat_ofNat, Nat.mod_eq_of_lt hlen]

end Sys2Proof.Machine
end
